-- ==== Sys2Proof/Word.lean ====
section
/-! DEFINITION. The word types of the block: bytes of the stream, 16-bit wire fields, 16-bit command words. -/

namespace Sys2Proof

/-- A byte of the stream, a checksum, a confidence (00_scope.md R7). -/
abbrev Byte := BitVec 8

/-- A 16-bit unsigned wire field: speed, angle, timestamp, distance (00_scope.md R7). -/
abbrev Half := BitVec 16

/-- One 16-bit command word, a unit of the command port with no byte order (30_encoding.md R79, 20_memory.md R55). -/
abbrev CmdWord := BitVec 16

end Sys2Proof
end

