-- ==== Sys2Proof/Syntax.lean ====
section
/-! DEFINITION. The commands of the block, the events of its ports, the rows of the opcode table and the lines of the
assembler's text form. -/

namespace Sys2Proof

/-- The commands, one constructor per row of spec/opcode_table.json (30_encoding.md R81). Operands are the 8-bit
unsigned `imm8` of R80. -/
inductive Instr where
  /-- PUSH b: append one byte of the stream (41_synchronizer.md R120). -/
  | push (b : Byte)
  /-- ATTEMPT: one decode attempt (41_synchronizer.md R129). -/
  | attempt
  /-- DRAIN: attempts until NEED_MORE or PACKET (41_synchronizer.md R130). -/
  | drain
  /-- POINT i: compute point i of the current packet (43_interpolator.md R173). -/
  | point (i : Byte)
  /-- CRCCLR: clear the checksum unit (40_checksum.md R104). -/
  | crcclr
  /-- CRCB b: feed one byte to the checksum unit (40_checksum.md R105). -/
  | crcb (b : Byte)
  /-- FAIL: report a fatal transport failure (60_exceptions.md R201). -/
  | fail
  deriving DecidableEq, Repr

/-- What the outside can do to the block between commands: put a command word on the command port (30_encoding.md R78)
or assert the reset signal (70_reset_and_hazards.md R230). -/
inductive PortEvent where
  | word (w : CmdWord)
  | reset
  deriving DecidableEq, Repr

/-- The three ways a word fails to be a command (30_encoding.md R83). -/
inductive Illegal where
  /-- `op` is 0x0 or at least 0x8. -/
  | badOp
  /-- `z` is not 0. -/
  | badZ
  /-- `imm8` is not 0 for ATTEMPT, DRAIN, CRCCLR or FAIL. -/
  | badImm
  deriving DecidableEq, Repr

/-- One row of the operation map (30_encoding.md R81). -/
structure OpRow where
  mnemonic : String
  matchBits : CmdWord
  maskBits : CmdWord
  deriving DecidableEq, Repr

/-- One line of the text form (30_encoding.md R86, R87), with its operands as the numbers written in the text. -/
inductive AsmLine where
  | push (b : Nat)
  | attempt
  | drain
  | point (i : Nat)
  | crcclr
  | crcb (b : Nat)
  | fail
  /-- `.word w`: the raw 16-bit word w, legal or not. -/
  | word (w : Nat)
  /-- FEED b0, ..., bk. -/
  | feed (bs : List Nat)
  /-- CRCSEQ b0, ..., bk. -/
  | crcseq (bs : List Nat)
  /-- POINTS n. -/
  | points (n : Nat)
  deriving DecidableEq, Repr

/-- Why the assembler refuses a text (30_encoding.md R86: "an assembly error, not a word"). -/
inductive AsmError where
  /-- An operand out of its range. -/
  | operandRange
  /-- A line that is none of the forms of R86 and R87. -/
  | badLine
  deriving DecidableEq, Repr

end Sys2Proof
end

