-- ==== Sys2Proof/Decode.lean ====
section
/-! DEFINITION. The command-word encoding (30_encoding.md section 2): the operation map, the decoder, total on every
16-bit word, and the encoder. -/

namespace Sys2Proof

/-- `op`, bits 15:12 of a command word (30_encoding.md R80). -/
def opField (w : CmdWord) : BitVec 4 := w.extractLsb' 12 4

/-- `z`, bits 11:8 of a command word (30_encoding.md R80). -/
def zField (w : CmdWord) : BitVec 4 := w.extractLsb' 8 4

/-- `imm8`, bits 7:0 of a command word (30_encoding.md R80). -/
def immField (w : CmdWord) : Byte := w.extractLsb' 0 8

/-- The operation map (30_encoding.md R81, spec/opcode_table.json). -/
def opTable : List OpRow :=
  [ ⟨"PUSH", 0x1000, 0xFF00⟩
  , ⟨"ATTEMPT", 0x2000, 0xFFFF⟩
  , ⟨"DRAIN", 0x3000, 0xFFFF⟩
  , ⟨"POINT", 0x4000, 0xFF00⟩
  , ⟨"CRCCLR", 0x5000, 0xFFFF⟩
  , ⟨"CRCB", 0x6000, 0xFF00⟩
  , ⟨"FAIL", 0x7000, 0xFFFF⟩ ]

/-- The table's mnemonic of a command (30_encoding.md R81). -/
def mnemonicOf : Instr → String
  | .push _ => "PUSH"
  | .attempt => "ATTEMPT"
  | .drain => "DRAIN"
  | .point _ => "POINT"
  | .crcclr => "CRCCLR"
  | .crcb _ => "CRCB"
  | .fail => "FAIL"

/-- Which clause of 30_encoding.md R83 an illegal word falls under, `op` looked at first, then `z`, then `imm8`. The
order has no effect on the machine: every illegal word gets the same response (DESIGN CHOICE, safe, log 18). -/
def illegalReason (w : CmdWord) : Illegal :=
  if opField w = 0 ∨ 8 ≤ (opField w).toNat then .badOp
  else if zField w ≠ 0 then .badZ
  else .badImm

/-- The decode procedure of 30_encoding.md R84, in its order. -/
def decode (w : CmdWord) : Except Illegal Instr :=
  if w &&& 0xFF00#16 = 0x1000#16 then .ok (.push (immField w))
  else if w = 0x2000#16 then .ok .attempt
  else if w = 0x3000#16 then .ok .drain
  else if w &&& 0xFF00#16 = 0x4000#16 then .ok (.point (immField w))
  else if w = 0x5000#16 then .ok .crcclr
  else if w &&& 0xFF00#16 = 0x6000#16 then .ok (.crcb (immField w))
  else if w = 0x7000#16 then .ok .fail
  else .error (illegalReason w)

/-- The word with `op`, `z` = 0 and `imm8` in their places (30_encoding.md R80). -/
def packWord (op : BitVec 4) (imm : Byte) : CmdWord := (op ++ 0#4) ++ imm

/-- The word of a command (30_encoding.md R81). -/
def encode : Instr → CmdWord
  | .push b => packWord 1 b
  | .attempt => packWord 2 0
  | .drain => packWord 3 0
  | .point i => packWord 4 i
  | .crcclr => packWord 5 0
  | .crcb b => packWord 6 b
  | .fail => packWord 7 0

/-- The command word whose bits are the low `nbits` bits of `w`, every bit above them 0. A command is exactly 16 bits and
one unit with no byte order, so nothing is reordered (30_encoding.md R79, 20_memory.md R55; DEDUCED, safe, log 12). -/
def tableWord (nbits w : Nat) : CmdWord := BitVec.ofNat 16 (w % 2 ^ nbits)

/-- The command the decoder reads from an opcode-table row's bits; none where it refuses. -/
def decodeTableWord (nbits w : Nat) : Option Instr := (decode (tableWord nbits w)).toOption

end Sys2Proof
end

