-- ==== Sys2Proof/Config.lean ====
section
/-! DEFINITION. The parameters of an instance of the block (00_scope.md R8), fixed while it runs. No parameter is
undefined in the manual's sense, so there is no free value here: a statement about every state is a statement about every
parameter value. The values the spec assumes "where a number is needed" are in Machine/Params.lean. -/

namespace Sys2Proof

/-- `SPAN_MOD`: how the span's `mod 360` treats a negative left side (00_scope.md R8, 43_interpolator.md R171). -/
inductive SpanMod where
  | euclid
  | trunc
  deriving DecidableEq, Repr

/-- The four parameters of 00_scope.md R8. `BUF_CAPACITY` is a number with legal values ≥ 104 (`Config.wf`). -/
structure Config where
  headerIndicator : Byte
  crcTable : Vector Byte 256
  bufCapacity : Nat
  spanMod : SpanMod
  deriving DecidableEq, Repr

end Sys2Proof
end

