-- ==== Sys2Proof/Machine/Params.lean ====
section
/-! DEFINITION. The parameter values the spec assumes where a number is needed (00_scope.md R8): indicator 0x54 and the
table of 40_checksum.md R100, both PRESUMED ("from general knowledge, not in source", 93_implementation_defined.md G1, G2;
unsafe, log 2), capacity 256 and EUCLID. -/

namespace Sys2Proof.Machine

/-- Row r0 of the table of 40_checksum.md R100: entries 0 to 15. -/
def crcRow0 : List Byte :=
  [0x00, 0x4D, 0x9A, 0xD7, 0x79, 0x34, 0xE3, 0xAE, 0xF2, 0xBF, 0x68, 0x25, 0x8B, 0xC6, 0x11, 0x5C]

/-- Row r1 of the table of 40_checksum.md R100: entries 16 to 31. -/
def crcRow1 : List Byte :=
  [0xA9, 0xE4, 0x33, 0x7E, 0xD0, 0x9D, 0x4A, 0x07, 0x5B, 0x16, 0xC1, 0x8C, 0x22, 0x6F, 0xB8, 0xF5]

/-- Row r2 of the table of 40_checksum.md R100: entries 32 to 47. -/
def crcRow2 : List Byte :=
  [0x1F, 0x52, 0x85, 0xC8, 0x66, 0x2B, 0xFC, 0xB1, 0xED, 0xA0, 0x77, 0x3A, 0x94, 0xD9, 0x0E, 0x43]

/-- Row r3 of the table of 40_checksum.md R100: entries 48 to 63. -/
def crcRow3 : List Byte :=
  [0xB6, 0xFB, 0x2C, 0x61, 0xCF, 0x82, 0x55, 0x18, 0x44, 0x09, 0xDE, 0x93, 0x3D, 0x70, 0xA7, 0xEA]

/-- Row r4 of the table of 40_checksum.md R100: entries 64 to 79. -/
def crcRow4 : List Byte :=
  [0x3E, 0x73, 0xA4, 0xE9, 0x47, 0x0A, 0xDD, 0x90, 0xCC, 0x81, 0x56, 0x1B, 0xB5, 0xF8, 0x2F, 0x62]

/-- Row r5 of the table of 40_checksum.md R100: entries 80 to 95. -/
def crcRow5 : List Byte :=
  [0x97, 0xDA, 0x0D, 0x40, 0xEE, 0xA3, 0x74, 0x39, 0x65, 0x28, 0xFF, 0xB2, 0x1C, 0x51, 0x86, 0xCB]

/-- Row r6 of the table of 40_checksum.md R100: entries 96 to 111. -/
def crcRow6 : List Byte :=
  [0x21, 0x6C, 0xBB, 0xF6, 0x58, 0x15, 0xC2, 0x8F, 0xD3, 0x9E, 0x49, 0x04, 0xAA, 0xE7, 0x30, 0x7D]

/-- Row r7 of the table of 40_checksum.md R100: entries 112 to 127. -/
def crcRow7 : List Byte :=
  [0x88, 0xC5, 0x12, 0x5F, 0xF1, 0xBC, 0x6B, 0x26, 0x7A, 0x37, 0xE0, 0xAD, 0x03, 0x4E, 0x99, 0xD4]

/-- Row r8 of the table of 40_checksum.md R100: entries 128 to 143. -/
def crcRow8 : List Byte :=
  [0x7C, 0x31, 0xE6, 0xAB, 0x05, 0x48, 0x9F, 0xD2, 0x8E, 0xC3, 0x14, 0x59, 0xF7, 0xBA, 0x6D, 0x20]

/-- Row r9 of the table of 40_checksum.md R100: entries 144 to 159. -/
def crcRow9 : List Byte :=
  [0xD5, 0x98, 0x4F, 0x02, 0xAC, 0xE1, 0x36, 0x7B, 0x27, 0x6A, 0xBD, 0xF0, 0x5E, 0x13, 0xC4, 0x89]

/-- Row r10 of the table of 40_checksum.md R100: entries 160 to 175. -/
def crcRow10 : List Byte :=
  [0x63, 0x2E, 0xF9, 0xB4, 0x1A, 0x57, 0x80, 0xCD, 0x91, 0xDC, 0x0B, 0x46, 0xE8, 0xA5, 0x72, 0x3F]

/-- Row r11 of the table of 40_checksum.md R100: entries 176 to 191. -/
def crcRow11 : List Byte :=
  [0xCA, 0x87, 0x50, 0x1D, 0xB3, 0xFE, 0x29, 0x64, 0x38, 0x75, 0xA2, 0xEF, 0x41, 0x0C, 0xDB, 0x96]

/-- Row r12 of the table of 40_checksum.md R100: entries 192 to 207. -/
def crcRow12 : List Byte :=
  [0x42, 0x0F, 0xD8, 0x95, 0x3B, 0x76, 0xA1, 0xEC, 0xB0, 0xFD, 0x2A, 0x67, 0xC9, 0x84, 0x53, 0x1E]

/-- Row r13 of the table of 40_checksum.md R100: entries 208 to 223. -/
def crcRow13 : List Byte :=
  [0xEB, 0xA6, 0x71, 0x3C, 0x92, 0xDF, 0x08, 0x45, 0x19, 0x54, 0x83, 0xCE, 0x60, 0x2D, 0xFA, 0xB7]

/-- Row r14 of the table of 40_checksum.md R100: entries 224 to 239. -/
def crcRow14 : List Byte :=
  [0x5D, 0x10, 0xC7, 0x8A, 0x24, 0x69, 0xBE, 0xF3, 0xAF, 0xE2, 0x35, 0x78, 0xD6, 0x9B, 0x4C, 0x01]

/-- Row r15 of the table of 40_checksum.md R100: entries 240 to 255. -/
def crcRow15 : List Byte :=
  [0xF4, 0xB9, 0x6E, 0x23, 0x8D, 0xC0, 0x17, 0x5A, 0x06, 0x4B, 0x9C, 0xD1, 0x7F, 0x32, 0xE5, 0xA8]

/-- The 256 entries of `CRC_TABLE_DEFAULT`, as 40_checksum.md R100 lists them. -/
def crcRows : List Byte :=
  crcRow0 ++ (crcRow1 ++ (crcRow2 ++ (crcRow3 ++ (crcRow4 ++ (crcRow5 ++ (crcRow6 ++ (crcRow7 ++
  (crcRow8 ++ (crcRow9 ++ (crcRow10 ++ (crcRow11 ++ (crcRow12 ++ (crcRow13 ++ (crcRow14 ++ crcRow15))))))))))))))

/-- The table has 256 entries. -/
theorem crcRows_length : crcRows.length = 256 := by decide +kernel

/-- `CRC_TABLE_DEFAULT` (40_checksum.md R100). -/
def crcTableDefault : Vector Byte 256 := ⟨⟨crcRows⟩, crcRows_length⟩

/-- One shift of the MSB-first CRC register with polynomial 0x4D: `t` of 40_checksum.md R100. -/
def crcShift (c : Byte) : Byte := if c.getLsbD 7 then (c <<< 1) ^^^ 0x4D#8 else c <<< 1

/-- `t8` of 40_checksum.md R100: `t` applied 8 times. -/
def crcShift8 (c : Byte) : Byte := Nat.repeat crcShift 8 c

/-- The parameter values of 00_scope.md R8's column "value this spec assumes where a number is needed". -/
def defaultConfig : Config :=
  { headerIndicator := 0x54
    crcTable := crcTableDefault
    bufCapacity := 256
    spanMod := .euclid }

end Sys2Proof.Machine
end

