-- ==== Sys2Proof/Machine/State.lean ====
section
/-! DEFINITION. The state of the block (10_state.md R20): plain data. INVENTORY.md lists every field with its rule, width
and reset value. -/

namespace Sys2Proof.Machine

/-- One range and confidence sample of a frame (00_scope.md R14, 30_encoding.md R70). -/
structure Sample where
  dist : Half
  conf : Byte
  deriving DecidableEq, Repr

/-- A packet as `decode(f)` gives it (42_decoder.md R150): `n` is the header's sample count and `samples` the N samples in
wire order. -/
structure Packet where
  ver : BitVec 3
  n : BitVec 5
  speed : Half
  startAngle : Half
  samples : List Sample
  endAngle : Half
  ts : Half
  crc : Byte
  deriving DecidableEq, Repr

/-- The packet registers PKT_* (10_state.md R30). -/
structure PktRegs where
  valid : Bool
  ver : BitVec 3
  n : BitVec 5
  speed : Half
  startAngle : Half
  dist : Vector Half 31
  conf : Vector Byte 31
  endAngle : Half
  ts : Half
  crc : Byte
  deriving DecidableEq, Repr

/-- The point registers PT_* (10_state.md R32). `span` is two's complement, the others are unsigned. -/
structure PtRegs where
  valid : Bool
  idx : BitVec 5
  span : BitVec 17
  num : BitVec 22
  den : BitVec 12
  dist : BitVec 32
  conf : Byte
  deriving DecidableEq, Repr

/-- The state: the spec's tuple (BUF, CRC_ACC, STATUS, NEED, FATAL, PKT, PT) of 10_state.md R20, and two fields of the
model's own. `cfg` holds the parameters of 00_scope.md R8, which nothing writes (DESIGN CHOICE, safe, log 1); `port` holds
what the caller will put on the command port, next event first (DESIGN CHOICE, safe, log 3). -/
structure State where
  /-- The parameters (00_scope.md R8). -/
  cfg : Config
  /-- The pending events of the caller (the model's own). -/
  port : List PortEvent
  /-- BUF, front at index 0 (R23). -/
  buf : List Byte
  /-- STATUS (R25). -/
  status : BitVec 4
  /-- NEED (R26). -/
  need : BitVec 7
  /-- FATAL (R27). -/
  fatal : Bool
  /-- CRC_ACC (R28). -/
  crcAcc : Byte
  /-- PKT_* (R30). -/
  pkt : PktRegs
  /-- PT_* (R32). -/
  pt : PtRegs
  deriving DecidableEq, Repr

/-- Why the machine stops with a fault: never. "The block raises no exceptions" (00_scope.md R12, 60_exceptions.md R205),
so the type has no constructor. -/
inductive Fault where
  deriving DecidableEq, Repr

/-- Why the machine gives no next state. -/
inductive Refusal where
  /-- An instruction with no meaning yet, by its mnemonic; raised by no arm of `exec`. Safe: the model only stops. -/
  | notModelled (mnemonic : String)
  /-- Raised by `step` when the caller has put nothing on the port: "it has no step that is not a command" (00_scope.md
  R16). Belongs to no instruction. Safe: the model only stops where the block rests (log 4). -/
  | noCommand
  deriving DecidableEq, Repr

/-- Every PKT_* register at 0 (10_state.md R30, R37). -/
def PktRegs.zero : PktRegs :=
  { valid := false, ver := 0, n := 0, speed := 0, startAngle := 0
    dist := Vector.replicate 31 0, conf := Vector.replicate 31 0
    endAngle := 0, ts := 0, crc := 0 }

/-- Every PT_* register at 0 (10_state.md R32, R37). -/
def PtRegs.zero : PtRegs :=
  { valid := false, idx := 0, span := 0, num := 0, den := 0, dist := 0, conf := 0 }

/-- The state after reset of the instance with the parameters `c`: BUF empty, STATUS = IDLE (0x0), every register 0
(10_state.md R37, 70_reset_and_hazards.md R230; the spec's decision D19, log 5), and nothing on the port (log 3). -/
def State.resetWith (c : Config) : State :=
  { cfg := c, port := [], buf := [], status := 0x0, need := 0, fatal := false, crcAcc := 0x00
    pkt := PktRegs.zero, pt := PtRegs.zero }

/-- The state after reset of the instance with the spec's assumed parameter values (00_scope.md R8; PRESUMED, unsafe,
log 2). -/
def State.reset : State := State.resetWith defaultConfig

/-- `BUF <- v`. -/
def State.setBuf (s : State) (v : List Byte) : State := { s with buf := v }
/-- `STATUS <- v`. -/
def State.setStatus (s : State) (v : BitVec 4) : State := { s with status := v }
/-- `NEED <- v`. -/
def State.setNeed (s : State) (v : BitVec 7) : State := { s with need := v }
/-- `FATAL <- v`. -/
def State.setFatal (s : State) (v : Bool) : State := { s with fatal := v }
/-- `CRC_ACC <- v`. -/
def State.setCrcAcc (s : State) (v : Byte) : State := { s with crcAcc := v }
/-- Every PKT_* register at once. -/
def State.setPkt (s : State) (v : PktRegs) : State := { s with pkt := v }
/-- Every PT_* register at once. -/
def State.setPt (s : State) (v : PtRegs) : State := { s with pt := v }
/-- The caller's pending events. -/
def State.setPort (s : State) (v : List PortEvent) : State := { s with port := v }

end Sys2Proof.Machine
end

