-- ==== Sys2Proof/Machine/Flags.lean ====
section
/-! DEFINITION. The STATUS codes. The block has no flags but STATUS and FATAL, and STATUS plays the part of a condition
code (10_state.md R33). -/

namespace Sys2Proof.Machine

/-- The named STATUS codes (30_encoding.md R85). -/
inductive StatusCode where
  | idle
  | needMore
  | resync
  | rejected
  | packet
  | pushed
  | full
  | pointOk
  | badIndex
  | noPacket
  | crcOk
  | illegal
  | fatal
  deriving DecidableEq, Repr

/-- The 4-bit code of a status (30_encoding.md R85); 0xD to 0xF name none. -/
def StatusCode.bits : StatusCode → BitVec 4
  | .idle => 0x0
  | .needMore => 0x1
  | .resync => 0x2
  | .rejected => 0x3
  | .packet => 0x4
  | .pushed => 0x5
  | .full => 0x6
  | .pointOk => 0x7
  | .badIndex => 0x8
  | .noPacket => 0x9
  | .crcOk => 0xA
  | .illegal => 0xB
  | .fatal => 0xC

/-- The outcome of one decode attempt (00_scope.md R15, 41_synchronizer.md R122). -/
inductive AttemptOutcome where
  | needMore
  | resync
  | rejected
  | packet
  deriving DecidableEq, Repr

/-- `STATUS <- o` for an outcome o (41_synchronizer.md R129, 30_encoding.md R85). -/
def outcomeCode : AttemptOutcome → StatusCode
  | .needMore => .needMore
  | .resync => .resync
  | .rejected => .rejected
  | .packet => .packet

/-- `STATUS <- code`. -/
def report (c : StatusCode) (s : State) : State := s.setStatus c.bits

end Sys2Proof.Machine
end

