-- ==== Sys2Proof/Machine/Operands.lean ====
section
/-! DEFINITION. Operand assembly (30_encoding.md R82). "No operand is sign-extended, scaled or shifted." -/

namespace Sys2Proof.Machine

/-- The byte operand of PUSH and CRCB: `imm8` as it stands. -/
def byteOperand (imm : Byte) : Byte := imm

/-- The index operand of POINT: `zext(imm8)`, 0 ≤ i ≤ 255. -/
def indexOperand (imm : Byte) : Nat := imm.toNat

end Sys2Proof.Machine
end

