-- ==== Sys2Proof/Machine/Ops.lean ====
section
/-! DEFINITION. The shared operations: byte sequences (00_scope.md R11), the two ways BUF changes (R12), the FATAL check
every command makes first, the illegal-word response and the reset signal. The block takes no exceptions and returns from
none (60_exceptions.md R205): `illegalResponse` is the one report that no command makes. -/

namespace Sys2Proof.Machine

/-- `s[k]`. Past the end it reads 0; no rule reads there (DEDUCED, safe, log 6). -/
def byteAt (f : List Byte) (k : Nat) : Byte := f.getD k 0

/-- `LE16(s, o)`: the byte at the lower offset holds bits 7–0 (00_scope.md R11, 20_memory.md R53). -/
def le16At (f : List Byte) (o : Nat) : Half :=
  (byteAt f o).zeroExtend 16 ||| ((byteAt f (o + 1)).zeroExtend 16 <<< 8)

/-- `le16(v) = [v[7:0], v[15:8]]` (42_decoder.md R156). -/
def le16Bytes (v : Half) : List Byte := [v.extractLsb' 0 8, v.extractLsb' 8 8]

/-- `BUF <- BUF ++ [b]` (00_scope.md R12). -/
def bufAppend (b : Byte) (s : State) : State := s.setBuf (s.buf ++ [b])

/-- The check made before every other (60_exceptions.md R204): while FATAL = 1 nothing changes (R202), else `f`. -/
def guarded (s : State) (f : State → State) : Host.Outcome State Fault Refusal :=
  .next (if s.fatal then s else f s)

/-- The ILLEGAL response (60_exceptions.md R203), which FATAL = 1 suppresses too (R202). -/
def illegalResponse (s : State) : Host.Outcome State Fault Refusal := guarded s (report .illegal)

/-- The reset signal (70_reset_and_hazards.md R230): every state element at its reset value, FATAL included, the
parameters unchanged. What the caller will do next is no state of the block, so `port` stays. -/
def resetSignal (s : State) : State := (State.resetWith s.cfg).setPort s.port

end Sys2Proof.Machine
end

