-- ==== Sys2Proof/Machine/PacketDecoder.lean ====
section
/-! DEFINITION. The header parse (41_synchronizer.md R121), the packet decoder, the packet-register write and the wire
encoding of a packet (42_decoder.md). -/

namespace Sys2Proof.Machine

/-- `ver = b1[7:5]` (41_synchronizer.md R121). -/
def hdrVer (b1 : Byte) : BitVec 3 := b1.extractLsb' 5 3

/-- `N = b1[4:0]` (41_synchronizer.md R121). -/
def hdrCount (b1 : Byte) : BitVec 5 := b1.extractLsb' 0 5

/-- `L(N) = 2 + 3·N + 9` (30_encoding.md R72). -/
def frameLen (n : BitVec 5) : Nat := 2 + 3 * n.toNat + 9

/-- The described length of a header's second byte (41_synchronizer.md R121). -/
def hdrLen (b1 : Byte) : Nat := frameLen (hdrCount b1)

/-- Sample k of a frame: distance at offset 6 + 3·k, confidence at 8 + 3·k (42_decoder.md R150). -/
def frameSample (f : List Byte) (k : Nat) : Sample :=
  { dist := le16At f (6 + 3 * k), conf := byteAt f (8 + 3 * k) }

/-- `decode(f)` (42_decoder.md R150). It checks nothing (R152). -/
def decodeFrame (f : List Byte) : Packet :=
  let n := hdrCount (byteAt f 1)
  { ver := hdrVer (byteAt f 1)
    n := n
    speed := le16At f 2
    startAngle := le16At f 4
    samples := (List.range n.toNat).map (frameSample f)
    endAngle := le16At f (6 + 3 * n.toNat)
    ts := le16At f (8 + 3 * n.toNat)
    crc := byteAt f (10 + 3 * n.toNat) }

/-- Slot k of the sample registers after a packet is written: sample k, or zeros for k ≥ n (42_decoder.md R151). -/
def slotOf (p : Packet) (k : Nat) : Sample :=
  if k < p.n.toNat then p.samples.getD k ⟨0, 0⟩ else ⟨0, 0⟩

/-- The packet registers that hold the packet p, PKT_VALID = 1 (42_decoder.md R151). -/
def pktRegsOf (p : Packet) : PktRegs :=
  { valid := true
    ver := p.ver
    n := p.n
    speed := p.speed
    startAngle := p.startAngle
    dist := Vector.ofFn fun k : Fin 31 => (slotOf p k.val).dist
    conf := Vector.ofFn fun k : Fin 31 => (slotOf p k.val).conf
    endAngle := p.endAngle
    ts := p.ts
    crc := p.crc }

/-- `PT_VALID <- 0`: the point registers no longer describe PKT (42_decoder.md R151). -/
def PtRegs.invalidated (r : PtRegs) : PtRegs := { r with valid := false }

/-- `write_packet(p)` (42_decoder.md R151). -/
def writePacket (p : Packet) (s : State) : State :=
  (s.setPkt (pktRegsOf p)).setPt s.pt.invalidated

/-- Slot k of the sample registers, PKT_DIST[k] and PKT_CONF[k] (10_state.md R30). -/
def pktSlot (r : PktRegs) (k : Nat) : Sample :=
  { dist := r.dist.toList.getD k 0, conf := r.conf.toList.getD k 0 }

/-- The packet held in the packet registers (10_state.md R29, 42_decoder.md R154). -/
def packetOfRegs (r : PktRegs) : Packet :=
  { ver := r.ver
    n := r.n
    speed := r.speed
    startAngle := r.startAngle
    samples := (List.range r.n.toNat).map (pktSlot r)
    endAngle := r.endAngle
    ts := r.ts
    crc := r.crc }

/-- Header byte 1 of a packet: `(ver << 5) OR n` (42_decoder.md R156, 30_encoding.md R71). -/
def headerByte (ver : BitVec 3) (n : BitVec 5) : Byte := (ver.zeroExtend 8 <<< 5) ||| n.zeroExtend 8

/-- The three wire bytes of a sample (42_decoder.md R156). -/
def sampleBytes (x : Sample) : List Byte := le16Bytes x.dist ++ [x.conf]

/-- The wire bytes of a packet before its checksum byte (42_decoder.md R156). -/
def packetBody (h : Byte) (p : Packet) : List Byte :=
  [h, headerByte p.ver p.n] ++ le16Bytes p.speed ++ le16Bytes p.startAngle ++
    p.samples.flatMap sampleBytes ++ le16Bytes p.endAngle ++ le16Bytes p.ts

/-- `encode(p)` with `HEADER_INDICATOR` = h (42_decoder.md R156). The block has no encoder: this states its law. -/
def encodePacket (h : Byte) (p : Packet) : List Byte := packetBody h p ++ [p.crc]

/-- A packet whose sample sequence has the length its count says (42_decoder.md R150; log 16). -/
abbrev Packet.wf (p : Packet) : Prop := p.samples.length = p.n.toNat

end Sys2Proof.Machine
end

