-- ==== Sys2Proof/Machine/Interpolator.lean ====
section
/-! DEFINITION. The angle interpolator: span, angle of a point, POINT (43_interpolator.md). Arithmetic is on mathematical
integers (00_scope.md R10); a value is narrowed only when it is written to its register, which it fits (R176; DEDUCED, safe,
log 9). -/

namespace Sys2Proof.Machine

/-- A full turn in centidegrees (43_interpolator.md R170). -/
def fullTurn : Int := 36000

/-- `x mod 36000` in the reading `SPAN_MOD` names (43_interpolator.md R170). -/
def spanReduce : SpanMod → Int → Int
  | .euclid, x => x.emod fullTurn
  | .trunc, x => x - fullTurn * x.tdiv fullTurn

/-- `span(pkt)` in centidegrees (43_interpolator.md R170). -/
def span (cfg : Config) (r : PktRegs) : Int :=
  spanReduce cfg.spanMod ((r.endAngle.toNat : Int) + fullTurn - (r.startAngle.toNat : Int))

/-- The one correction, strict "exceeds" (43_interpolator.md R172, R177). -/
def correctOnce (n : Nat) (a : Int) : Int :=
  if a > fullTurn * (n : Int) then a - fullTurn * (n : Int) else a

/-- `angle_num(pkt, i)` (43_interpolator.md R172). -/
def angleNum (cfg : Config) (r : PktRegs) (i : Nat) : Int :=
  correctOnce r.n.toNat ((r.startAngle.toNat : Int) * (r.n.toNat : Int) + span cfg r * (i : Int))

/-- `angle_den(pkt) = 100·N` (43_interpolator.md R172). -/
def angleDen (r : PktRegs) : Nat := 100 * r.n.toNat

/-- `angle_deg(pkt, i)`: the exact rational, in degrees (43_interpolator.md R172, R178). Not a floating-point value
(log 17). For N = 0 the spec makes no division (R175), and this total one gives 0 (DESIGN CHOICE, unsafe, log 19). -/
def angleDeg (cfg : Config) (r : PktRegs) (i : Nat) : Rat := (angleNum cfg r i : Rat) / (angleDen r : Rat)

/-- The angle held in the point registers, PT_NUM / PT_DEN degrees (10_state.md R32). With PT_DEN = 0, as
after reset, the spec gives 0/0 no value, and this total division gives 0 (DESIGN CHOICE, unsafe, log 19). -/
def PtRegs.angle (r : PtRegs) : Rat := (r.num.toNat : Rat) / (r.den.toNat : Rat)

/-- The point registers POINT i writes for the packet registers `r` (43_interpolator.md R173, R174). -/
def pointRegs (cfg : Config) (r : PktRegs) (i : Nat) : PtRegs :=
  { valid := true
    idx := BitVec.ofNat 5 i
    span := BitVec.ofInt 17 (span cfg r)
    num := BitVec.ofInt 22 (angleNum cfg r i)
    den := BitVec.ofNat 12 (angleDen r)
    dist := (pktSlot r i).dist.zeroExtend 32
    conf := (pktSlot r i).conf }

/-- The effect of POINT i while FATAL = 0: PKT_VALID is checked before the index (43_interpolator.md R173,
60_exceptions.md R204). -/
def pointEffect (i : Nat) (s : State) : State :=
  if s.pkt.valid = false then report .noPacket s
  else if s.pkt.n.toNat ≤ i then report .badIndex s
  else report .pointOk (s.setPt (pointRegs s.cfg s.pkt i))

/-- POINT i (43_interpolator.md R173). -/
def execPoint (imm : Byte) (s : State) : Host.Outcome State Fault Refusal :=
  guarded s (pointEffect (indexOperand imm))

end Sys2Proof.Machine
end

