-- ==== Sys2Proof/Machine/Checksum.lean ====
section
/-! DEFINITION. Checksum table, CRC step, frame check, CRCCLR and CRCB (40_checksum.md). -/

namespace Sys2Proof.Machine

/-- `crc_step(c, b) = CRC_TABLE[c XOR b]` (40_checksum.md R101). -/
def crcStep (cfg : Config) (c b : Byte) : Byte := cfg.crcTable[(c ^^^ b).toNat]'(c ^^^ b).isLt

/-- The running checksum `c` carried over the bytes of a sequence, front first (40_checksum.md R102). -/
def crcFold (cfg : Config) (c : Byte) (f : List Byte) : Byte := f.foldl (crcStep cfg) c

/-- `crc8(s)`: "the running checksum starts at 0", with no final XOR (40_checksum.md R102). -/
def crc8 (cfg : Config) (f : List Byte) : Byte := crcFold cfg 0x00 f

/-- `frame_ok(f)`: crc8 of all bytes but the last equals the last (40_checksum.md R103). It reads `f` and the table
only, not CRC_ACC. -/
def frameOk (cfg : Config) (f : List Byte) : Bool :=
  crc8 cfg (f.take (f.length - 1)) == byteAt f (f.length - 1)

/-- CRCCLR (40_checksum.md R104). -/
def execCrcclr (s : State) : Host.Outcome State Fault Refusal :=
  guarded s fun s => report .crcOk (s.setCrcAcc 0x00)

/-- CRCB b (40_checksum.md R105). -/
def execCrcb (imm : Byte) (s : State) : Host.Outcome State Fault Refusal :=
  guarded s fun s => report .crcOk (s.setCrcAcc (crcStep s.cfg s.crcAcc (byteOperand imm)))

end Sys2Proof.Machine
end

