-- ==== Sys2Proof/Machine/Synchronizer.lean ====
section
/-! DEFINITION. The frame synchronizer and packet extractor: PUSH, the decode attempt, ATTEMPT, DRAIN (41_synchronizer.md),
and the phase of the driver loop (10_state.md R34). -/

namespace Sys2Proof.Machine

/-- What `attempt_core` returns: an outcome, an amount, the new buffer and, for PACKET only, a packet
(41_synchronizer.md R122). -/
structure AttemptResult where
  outcome : AttemptOutcome
  amount : Nat
  rest : List Byte
  packet : Option Packet
  deriving DecidableEq, Repr

/-- `attempt_core(B)`, its checks in the order of 41_synchronizer.md R122. The candidate is removed before its checksum is
looked at (R126). -/
def attemptCore (cfg : Config) (B : List Byte) : AttemptResult :=
  if B.length < 2 then ⟨.needMore, 2 - B.length, B, none⟩
  else if byteAt B 0 ≠ cfg.headerIndicator then ⟨.resync, 0, B.drop 1, none⟩
  else
    let L := hdrLen (byteAt B 1)
    if B.length < L then ⟨.needMore, L - B.length, B, none⟩
    else if frameOk cfg (B.take L) then ⟨.packet, 0, B.drop L, some (decodeFrame (B.take L))⟩
    else ⟨.rejected, 0, B.drop L, none⟩

/-- Whether DRAIN's loop goes on after an outcome: it exits at NEED_MORE and PACKET (41_synchronizer.md R130). -/
def goesOn : AttemptOutcome → Bool
  | .needMore => false
  | .resync => true
  | .rejected => true
  | .packet => false

/-- DRAIN's loop with at most `fuel` attempts after the first. An attempt the loop passes through produces no packet, so
only the last one's result is left to apply (41_synchronizer.md R130). -/
def drainCore (cfg : Config) : Nat → List Byte → AttemptResult
  | 0, B => attemptCore cfg B
  | fuel + 1, B =>
    let r := attemptCore cfg B
    if goesOn r.outcome then drainCore cfg fuel r.rest else r

/-- The writes of an attempt's result: BUF, the packet if there is one, STATUS, NEED (41_synchronizer.md R129, R130). -/
def applyAttempt (r : AttemptResult) (s : State) : State :=
  let s := s.setBuf r.rest
  let s := match r.packet with
    | some p => writePacket p s
    | none => s
  (report (outcomeCode r.outcome) s).setNeed (BitVec.ofNat 7 r.amount)

/-- The effect of PUSH b while FATAL = 0 (41_synchronizer.md R120). The bound is tested with `==` as the rule writes it;
a longer buffer is never reached (DEDUCED, safe, log 8). -/
def pushByte (b : Byte) (s : State) : State :=
  if s.buf.length = s.cfg.bufCapacity then report .full s else report .pushed (bufAppend b s)

/-- PUSH b (41_synchronizer.md R120). -/
def execPush (imm : Byte) (s : State) : Host.Outcome State Fault Refusal :=
  guarded s (pushByte (byteOperand imm))

/-- ATTEMPT (41_synchronizer.md R129). -/
def execAttempt (s : State) : Host.Outcome State Fault Refusal :=
  guarded s fun s => applyAttempt (attemptCore s.cfg s.buf) s

/-- DRAIN (41_synchronizer.md R130): "the loop runs at most len(BUF) + 1 times", the fuel (DEDUCED, safe, log 7). -/
def execDrain (s : State) : Host.Outcome State Fault Refusal :=
  guarded s fun s => applyAttempt (drainCore s.cfg s.buf.length s.buf) s

/-- The phases of the driver loop that are a function of BUF (10_state.md R34). -/
inductive Phase where
  | awaitingHeader
  | awaitingBody
  | frameReady
  deriving DecidableEq, Repr

/-- `phase(BUF)` (10_state.md R34). -/
def phase (cfg : Config) (B : List Byte) : Phase :=
  if B.length < 2 ∨ byteAt B 0 ≠ cfg.headerIndicator then .awaitingHeader
  else if B.length < hdrLen (byteAt B 1) then .awaitingBody
  else .frameReady

end Sys2Proof.Machine
end

