-- ==== Sys2Proof/Machine/Transport.lean ====
section
/-! DEFINITION. The transport-failure command FAIL (60_exceptions.md R201). -/

namespace Sys2Proof.Machine

/-- FAIL (60_exceptions.md R201). -/
def execFail (s : State) : Host.Outcome State Fault Refusal :=
  guarded s fun s => report .fatal (s.setFatal true)

end Sys2Proof.Machine
end

