-- ==== Sys2Proof/Machine/Dispatch.lean ====
section
/-! DEFINITION. One arm per command, each a direct call of its meaning. -/

namespace Sys2Proof.Machine

def exec (i : Instr) (s : State) : Host.Outcome State Fault Refusal :=
  match i with
  | .push b => Sys2Proof.Machine.execPush b s
  | .attempt => Sys2Proof.Machine.execAttempt s
  | .drain => Sys2Proof.Machine.execDrain s
  | .point k => Sys2Proof.Machine.execPoint k s
  | .crcclr => Sys2Proof.Machine.execCrcclr s
  | .crcb b => Sys2Proof.Machine.execCrcb b s
  | .fail => Sys2Proof.Machine.execFail s

end Sys2Proof.Machine
end

