-- ==== Sys2Proof/Machine/Port.lean ====
section
/-! DEFINITION. The command port: what one event put there by the caller does (30_encoding.md R78, 70_reset_and_hazards.md
R230). -/

namespace Sys2Proof.Machine

/-- One command word: the command it decodes to, or the ILLEGAL response (30_encoding.md R83, R84, 60_exceptions.md
R203). Both are suppressed while FATAL = 1 (R202). -/
def execWord (w : CmdWord) (s : State) : Host.Outcome State Fault Refusal :=
  match decode w with
  | .ok i => exec i s
  | .error _ => illegalResponse s

/-- One event: a command word, or the reset signal, which falls between commands (70_reset_and_hazards.md R232). -/
def execEvent (e : PortEvent) (s : State) : Host.Outcome State Fault Refusal :=
  match e with
  | .word w => execWord w s
  | .reset => .next (resetSignal s)

/-- The caller's events with one more command word first. -/
def putWordFirst (w : CmdWord) (s : State) : State := s.setPort (.word w :: s.port)

end Sys2Proof.Machine
end

