-- ==== Sys2Proof/Machine/Step.lean ====
section
/-! DEFINITION. One step of the machine, and where it takes its next instruction from. -/

namespace Sys2Proof.Machine

/-- One step: the first event of the port is taken and carried out. With no event there is no step: "it has no step that
is not a command" (00_scope.md R16; DEDUCED, safe, log 4). -/
def step (s : State) : Host.Outcome State Fault Refusal :=
  match s.port with
  | [] => .refused .noCommand
  | e :: rest => execEvent e (s.setPort rest)

/-- `s` with the command word of an opcode-table row put first on the command port, so that the next step runs it
(log 3). -/
def State.withFetchWord (s : State) (nbits w : Nat) : State := putWordFirst (tableWord nbits w) s

end Sys2Proof.Machine
end

