-- ==== Sys2Proof/WellFormed.lean ====
section
/-! DEFINITION. Which terms are legal: instructions, assembler lines, parameter values. -/

namespace Sys2Proof

/-- Every term of `Instr` is a legal command: the operands are 8-bit by type, and no operand value is reserved
(30_encoding.md R82, R83). -/
abbrev Instr.wf : Instr → Prop
  | .push _ => True
  | .attempt => True
  | .drain => True
  | .point _ => True
  | .crcclr => True
  | .crcb _ => True
  | .fail => True

/-- An assembler line is legal when its operands are in range: b ≤ 255, i ≤ 255, a raw word of 16 bits, and
0 ≤ n ≤ 256 for POINTS (30_encoding.md R86, R87). FEED and CRCSEQ list at least one byte (R87 writes `b0, ..., bk`). -/
def AsmLine.wf : AsmLine → Bool
  | .push b => decide (b ≤ 255)
  | .attempt => true
  | .drain => true
  | .point i => decide (i ≤ 255)
  | .crcclr => true
  | .crcb b => decide (b ≤ 255)
  | .fail => true
  | .word w => decide (w ≤ 65535)
  | .feed bs => !bs.isEmpty && bs.all fun b => decide (b ≤ 255)
  | .crcseq bs => !bs.isEmpty && bs.all fun b => decide (b ≤ 255)
  | .points n => decide (n ≤ 256)

/-- The legal parameter values: `BUF_CAPACITY` ≥ 104, every other value (00_scope.md R8). A premise and a
clause of the invariant, not part of the type (DESIGN CHOICE, safe, log 15). -/
abbrev Config.wf (c : Config) : Prop := 104 ≤ c.bufCapacity

end Sys2Proof
end

