-- ==== Sys2Proof/Machine/Assembler.lean ====
section
/-! DEFINITION. The text form of commands and the pseudo-commands (30_encoding.md R86, R87). A pseudo-command "has no
semantics of its own: a model runs its expansion". The spacing, comma and letter-case conventions are the model's own
(DESIGN CHOICE, safe, log 11). -/

namespace Sys2Proof.Machine

/-- The expansions of 30_encoding.md R87; every other line stands for itself. -/
def expandLine : AsmLine → List AsmLine
  | .feed bs => bs.map .push
  | .crcseq bs => .crcclr :: bs.map .crcb
  | .points n => (List.range n).map .point
  | l => [l]

/-- The one word of a line that is no pseudo-command; operands already in range (30_encoding.md R81, R86). A
pseudo-command has none of its own. -/
def lineWord : AsmLine → Option CmdWord
  | .push b => some (encode (.push (BitVec.ofNat 8 b)))
  | .attempt => some (encode .attempt)
  | .drain => some (encode .drain)
  | .point i => some (encode (.point (BitVec.ofNat 8 i)))
  | .crcclr => some (encode .crcclr)
  | .crcb b => some (encode (.crcb (BitVec.ofNat 8 b)))
  | .fail => some (encode .fail)
  | .word w => some (BitVec.ofNat 16 w)
  | .feed _ => none
  | .crcseq _ => none
  | .points _ => none

/-- The words of one line: "an operand out of range is an assembly error, not a word" (30_encoding.md R86). -/
def assembleLine (l : AsmLine) : Except AsmError (List CmdWord) :=
  if l.wf then .ok ((expandLine l).filterMap lineWord) else .error .operandRange

/-- The words of a program, in order (30_encoding.md R86: one command per line). -/
def assemble : List AsmLine → Except AsmError (List CmdWord)
  | [] => .ok []
  | l :: ls =>
    match assembleLine l, assemble ls with
    | .ok ws, .ok rest => .ok (ws ++ rest)
    | .error e, _ => .error e
    | .ok _, .error e => .error e

/-- A token of a line: a run of characters that are no space and no comma, or a comma. -/
inductive Tok where
  | text (cs : List Char)
  | comma
  deriving DecidableEq, Repr

/-- The token read so far, put in front of the tokens after it. -/
def closeTok (acc : List Char) (rest : List Tok) : List Tok :=
  if acc.isEmpty then rest else .text acc.reverse :: rest

/-- The tokens of a line; `;` starts a comment that runs to its end (30_encoding.md R86). `acc` holds the characters of
the token being read, last first. -/
def lexLine (acc : List Char) : List Char → List Tok
  | [] => closeTok acc []
  | c :: cs =>
    if c = ';' then closeTok acc []
    else if c = ' ' ∨ c = '\t' ∨ c = '\r' then closeTok acc (lexLine [] cs)
    else if c = ',' then closeTok acc (.comma :: lexLine [] cs)
    else lexLine (c :: acc) cs

/-- The value of a digit in base 10 or 16. -/
def digitVal (c : Char) : Option Nat :=
  if '0' ≤ c ∧ c ≤ '9' then some (c.toNat - '0'.toNat)
  else if 'a' ≤ c ∧ c ≤ 'f' then some (c.toNat - 'a'.toNat + 10)
  else if 'A' ≤ c ∧ c ≤ 'F' then some (c.toNat - 'A'.toNat + 10)
  else none

/-- The number whose digits follow `acc` in base `base`; none at a character that is no digit of it. -/
def digitsVal (base : Nat) (acc : Nat) : List Char → Option Nat
  | [] => some acc
  | c :: cs =>
    match digitVal c with
    | some d => if d < base then digitsVal base (acc * base + d) cs else none
    | none => none

/-- "a decimal or `0x` hexadecimal number" (30_encoding.md R86). -/
def numberOf : List Char → Option Nat
  | [] => none
  | '0' :: 'x' :: c :: cs => digitsVal 16 0 (c :: cs)
  | cs => digitsVal 10 0 cs

/-- `b0, b1, ..., bk` (30_encoding.md R87). -/
def operandList : List Tok → Option (List Nat)
  | [.text t] => (numberOf t).map fun n => [n]
  | .text t :: .comma :: rest =>
    match numberOf t, operandList rest with
    | some n, some ns => some (n :: ns)
    | _, _ => none
  | _ => none

/-- One numeric operand. -/
def oneOperand : List Tok → Option Nat
  | [.text t] => numberOf t
  | _ => none

/-- The line a mnemonic and its operand tokens spell (30_encoding.md R86, R87). -/
def parseMnemonic (m : List Char) (ops : List Tok) : Option AsmLine :=
  if m = "PUSH".toList then (oneOperand ops).map .push
  else if m = "ATTEMPT".toList ∧ ops = [] then some .attempt
  else if m = "DRAIN".toList ∧ ops = [] then some .drain
  else if m = "POINT".toList then (oneOperand ops).map .point
  else if m = "CRCCLR".toList ∧ ops = [] then some .crcclr
  else if m = "CRCB".toList then (oneOperand ops).map .crcb
  else if m = "FAIL".toList ∧ ops = [] then some .fail
  else if m = ".word".toList then (oneOperand ops).map .word
  else if m = "FEED".toList then (operandList ops).map .feed
  else if m = "CRCSEQ".toList then (operandList ops).map .crcseq
  else if m = "POINTS".toList then (oneOperand ops).map .points
  else none

/-- A text line: nothing, for an empty or comment line, or one assembler line. -/
def parseLine (cs : List Char) : Except AsmError (List AsmLine) :=
  match lexLine [] cs with
  | [] => .ok []
  | .text m :: ops =>
    match parseMnemonic m ops with
    | some l => .ok [l]
    | none => .error .badLine
  | .comma :: _ => .error .badLine

/-- The lines of a text; `acc` holds the characters of the line being read, last first. -/
def linesOf (acc : List Char) : List Char → List (List Char)
  | [] => [acc.reverse]
  | c :: cs => if c = '\n' then acc.reverse :: linesOf [] cs else linesOf (c :: acc) cs

/-- The assembler lines of the lines of a text, in order. -/
def parseLines : List (List Char) → Except AsmError (List AsmLine)
  | [] => .ok []
  | l :: ls =>
    match parseLine l, parseLines ls with
    | .ok a, .ok rest => .ok (a ++ rest)
    | .error e, _ => .error e
    | .ok _, .error e => .error e

/-- The command words of a text (30_encoding.md R86, R87). -/
def assembleText (text : List Char) : Except AsmError (List CmdWord) :=
  match parseLines (linesOf [] text) with
  | .ok ls => assemble ls
  | .error e => .error e

end Sys2Proof.Machine
end

