-- ==== Sys2Proof/Machine/Caller.lean ====
section
/-! DEFINITION. The stream as R136 of 41_synchronizer.md speaks of it (`packets`, `rest`), and the caller's loop of R136 and
R138: push a chunk, poll until NEED_MORE, read PKT_* after every PACKET. The caller is outside the block: these functions
only issue commands and read registers (DESIGN CHOICE, safe, log 14). -/

namespace Sys2Proof.Machine

/-- Attempts on B until one returns NEED_MORE: the packets in order, and the buffer left. At most `fuel` attempts are made;
len(B) + 1 are enough, since each one before the last removes a byte (41_synchronizer.md R130, R136). -/
def streamRun (cfg : Config) : Nat → List Byte → List Packet × List Byte
  | 0, B => ([], B)
  | fuel + 1, B =>
    let r := attemptCore cfg B
    if r.outcome = .needMore then ([], r.rest)
    else
      let q := streamRun cfg fuel r.rest
      (r.packet.toList ++ q.1, q.2)

/-- `packets(S)` (41_synchronizer.md R136). -/
def packetsOf (cfg : Config) (S : List Byte) : List Packet := (streamRun cfg (S.length + 1) S).1

/-- `rest(S)` (41_synchronizer.md R136). -/
def restOf (cfg : Config) (S : List Byte) : List Byte := (streamRun cfg (S.length + 1) S).2

/-- The state after a command the caller issues; a command that gave no next state would leave it. -/
def issue (i : Instr) (s : State) : State :=
  match exec i s with
  | .next t => t
  | .fault _ => s
  | .refused _ => s

/-- The states a list of commands passes through, the last one. -/
def issueAll : List Instr → State → State
  | [], s => s
  | i :: is, s => issueAll is (issue i s)

/-- The two commands a caller may poll with: "issues DRAIN (or ATTEMPT)" (41_synchronizer.md R136). -/
inductive Poll where
  | attempt
  | drain
  deriving DecidableEq, Repr

/-- The command of a poll. -/
def pollInstr : Poll → Instr
  | .attempt => .attempt
  | .drain => .drain

/-- Poll until STATUS = NEED_MORE, reading PKT_* after every PACKET (41_synchronizer.md R136, R138), at most `fuel` times. -/
def pollUntilNeed (p : Poll) : Nat → State → State × List Packet
  | 0, s => (s, [])
  | fuel + 1, s =>
    let t := issue (pollInstr p) s
    if t.status = StatusCode.needMore.bits then (t, [])
    else
      let r := pollUntilNeed p fuel t
      (r.1, if t.status = StatusCode.packet.bits then packetOfRegs t.pkt :: r.2 else r.2)

/-- Push the bytes in order; the flag says whether some PUSH got FULL. -/
def feedBytes : List Byte → State → State × Bool
  | [], s => (s, false)
  | b :: bs, s =>
    let t := issue (.push b) s
    let r := feedBytes bs t
    (r.1, (t.status == StatusCode.full.bits) || r.2)

/-- What a caller has seen after some chunks: the state, the packets read, and whether some PUSH got FULL. -/
structure CallerRun where
  state : State
  packets : List Packet
  full : Bool
  deriving DecidableEq, Repr

/-- One chunk: push its bytes, then poll until NEED_MORE (at most len(BUF) + 1 polls are needed). -/
def runChunk (c : List Byte × Poll) (s : State) : CallerRun :=
  let f := feedBytes c.1 s
  let r := pollUntilNeed c.2 (f.1.buf.length + 1) f.1
  ⟨r.1, r.2, f.2⟩

/-- A stream split into chunks, each with the command it is polled with (41_synchronizer.md R136). -/
def runChunks : List (List Byte × Poll) → State → CallerRun
  | [], s => ⟨s, [], false⟩
  | c :: cs, s =>
    let a := runChunk c s
    let b := runChunks cs a.state
    ⟨b.state, a.packets ++ b.packets, a.full || b.full⟩

/-- ATTEMPT issued until its STATUS is NEED_MORE or PACKET, at most `fuel + 1` times (92_eei_decisions.md D20). -/
def attemptUntil : Nat → State → State
  | 0, s => issue .attempt s
  | fuel + 1, s =>
    let t := issue .attempt s
    if t.status = StatusCode.needMore.bits ∨ t.status = StatusCode.packet.bits then t
    else attemptUntil fuel t

end Sys2Proof.Machine
end

