-- ==== Sys2Proof/Machine/ResultPort.lean ====
section
/-! DEFINITION. The result port: the registers the caller and the point sink may read between commands (20_memory.md R61,
10_state.md R24). Reading is a function of the state, so it has no side effect. -/

namespace Sys2Proof.Machine

/-- The readable registers (20_memory.md R61, 10_state.md R24–R32). -/
inductive ResultReg where
  | status
  | need
  | fatal
  | bufLen
  /-- Byte k of BUF. -/
  | bufByte (k : Nat)
  | crcAcc
  | pktValid
  | pktVer
  | pktN
  | pktSpeed
  | pktStart
  | pktDist (k : Fin 31)
  | pktConf (k : Fin 31)
  | pktEnd
  | pktTs
  | pktCrc
  | ptValid
  | ptIdx
  | ptSpan
  | ptNum
  | ptDen
  | ptDist
  | ptConf
  deriving DecidableEq, Repr

/-- The bits a register holds, as an unsigned number; none for a byte that BUF does not hold. PT_SPAN gives its 17 bits of
two's complement as they stand (DESIGN CHOICE, safe, log 10). -/
def readResult (s : State) : ResultReg → Option Nat
  | .status => some s.status.toNat
  | .need => some s.need.toNat
  | .fatal => some s.fatal.toNat
  | .bufLen => some s.buf.length
  | .bufByte k => (s.buf[k]?).map BitVec.toNat
  | .crcAcc => some s.crcAcc.toNat
  | .pktValid => some s.pkt.valid.toNat
  | .pktVer => some s.pkt.ver.toNat
  | .pktN => some s.pkt.n.toNat
  | .pktSpeed => some s.pkt.speed.toNat
  | .pktStart => some s.pkt.startAngle.toNat
  | .pktDist k => some (s.pkt.dist[k]).toNat
  | .pktConf k => some (s.pkt.conf[k]).toNat
  | .pktEnd => some s.pkt.endAngle.toNat
  | .pktTs => some s.pkt.ts.toNat
  | .pktCrc => some s.pkt.crc.toNat
  | .ptValid => some s.pt.valid.toNat
  | .ptIdx => some s.pt.idx.toNat
  | .ptSpan => some s.pt.span.toNat
  | .ptNum => some s.pt.num.toNat
  | .ptDen => some s.pt.den.toNat
  | .ptDist => some s.pt.dist.toNat
  | .ptConf => some s.pt.conf.toNat

end Sys2Proof.Machine
end

