-- ==== Sys2Proof/Safety.lean ====
section
/-! DEFINITION. What holds in every state a run of the block reaches (10_state.md), clause by clause. -/

namespace Sys2Proof.Machine

/-- BUF holds at most `BUF_CAPACITY` bytes (10_state.md R23) and the capacity is legal (00_scope.md R8). -/
abbrev State.bufBounded (s : State) : Prop := s.cfg.wf ∧ s.buf.length ≤ s.cfg.bufCapacity

/-- STATUS holds a named code; 0xD to 0xF are "never written" (30_encoding.md R85). -/
abbrev State.statusNamed (s : State) : Prop := s.status.toNat ≤ 0xC

/-- 0 ≤ NEED ≤ 102 (10_state.md R26). -/
abbrev State.needBounded (s : State) : Prop := s.need.toNat ≤ 102

/-- FATAL = 1 exactly while STATUS is FATAL (60_exceptions.md R201, R202). -/
abbrev State.fatalReported (s : State) : Prop := s.fatal = true ↔ s.status = StatusCode.fatal.bits

/-- Before a packet has been decoded every PKT_* and PT_* is at its reset value (10_state.md R29, R31, R37). -/
abbrev State.zeroBeforePacket (s : State) : Prop :=
  s.pkt.valid = false → s.pkt = PktRegs.zero ∧ s.pt = PtRegs.zero

/-- PKT_DIST[k] and PKT_CONF[k] are 0 for k ≥ PKT_N (10_state.md R30). -/
abbrev State.unusedSlotsZero (s : State) : Prop :=
  ∀ k : Fin 31, s.pkt.n.toNat ≤ k.val → s.pkt.dist[k] = 0 ∧ s.pkt.conf[k] = 0

/-- The packet held passed its checksum: "A Packet is created only by the decoder after both length and checksum checks
pass" (41_synchronizer.md R128, 42_decoder.md R156). -/
abbrev State.packetChecked (s : State) : Prop :=
  s.pkt.valid = true → frameOk s.cfg (encodePacket s.cfg.headerIndicator (packetOfRegs s.pkt)) = true

/-- "1 when PT_* describe a point of the packet now in PKT" (10_state.md R32). -/
abbrev State.pointDescribesPacket (s : State) : Prop :=
  s.pt.valid = true → s.pkt.valid = true ∧ s.pt.idx.toNat < s.pkt.n.toNat ∧
    s.pt = pointRegs s.cfg s.pkt s.pt.idx.toNat

/-- The ranges of PT_SPAN, PT_NUM and PT_DEN (10_state.md R32), which the reset values 0 of PT_DEN widen downwards. -/
abbrev State.pointBounded (s : State) : Prop :=
  -29535 ≤ s.pt.span.toInt ∧ s.pt.span.toInt ≤ 35999 ∧ s.pt.num.toNat ≤ 3111555 ∧ s.pt.den.toNat ≤ 3100

/-- The invariant of the block. -/
structure State.Inv (s : State) : Prop where
  bufBounded : s.bufBounded
  statusNamed : s.statusNamed
  needBounded : s.needBounded
  fatalReported : s.fatalReported
  zeroBeforePacket : s.zeroBeforePacket
  unusedSlotsZero : s.unusedSlotsZero
  packetChecked : s.packetChecked
  pointDescribesPacket : s.pointDescribesPacket
  pointBounded : s.pointBounded

end Sys2Proof.Machine
end

