-- ==== Sys2Proof/Certificates/Slice0/Obligations.lean ====
section
/-! DEFINITION. The statements for the provers. Each docstring names the rules of spec/ it formalises. Bytes of the buffer are
read with `byteAt`, and a 16-bit field at offset o is written `byteAt B (o + 1) ++ byteAt B o`, high byte first. Every statement holds
for every value of the parameters `s.cfg`, unless a premise names one. -/

open Sys2Proof Sys2Proof.Machine

/-! ### Encoding -/

/-- R81, R84: decoding the word of a command gives the command back, with every operand value (every `Instr` is well
formed). -/
def Obligations.DecodeEncodeIdentity : Prop :=
  ∀ i : Instr, i.wf → decode (encode i) = .ok i

/-- R81, R83: a word has one meaning; no bit of a legal word is dropped. -/
def Obligations.EncodeDecodeIdentity : Prop :=
  ∀ (w : CmdWord) (i : Instr), decode w = .ok i → encode i = w

/-- R81: a word is the listed command exactly when (word AND mask) == match, the patterns are disjoint, and the operand is
`imm8`. -/
def Obligations.DecodeFollowsOperationMap : Prop :=
  ∀ w : CmdWord,
    ((∃ b, decode w = .ok (.push b)) ↔ w &&& 0xFF00#16 = 0x1000#16) ∧
    (decode w = .ok .attempt ↔ w &&& 0xFFFF#16 = 0x2000#16) ∧
    (decode w = .ok .drain ↔ w &&& 0xFFFF#16 = 0x3000#16) ∧
    ((∃ i, decode w = .ok (.point i)) ↔ w &&& 0xFF00#16 = 0x4000#16) ∧
    (decode w = .ok .crcclr ↔ w &&& 0xFFFF#16 = 0x5000#16) ∧
    ((∃ b, decode w = .ok (.crcb b)) ↔ w &&& 0xFF00#16 = 0x6000#16) ∧
    (decode w = .ok .fail ↔ w &&& 0xFFFF#16 = 0x7000#16) ∧
    (∀ b : Byte, decode w = .ok (.push b) ∨ decode w = .ok (.point b) ∨ decode w = .ok (.crcb b) →
      b = w.setWidth 8) ∧
    (∀ r ∈ opTable, ∀ r' ∈ opTable, w &&& r.maskBits = r.matchBits → w &&& r'.maskBits = r'.matchBits → r = r')

/-- R83: which words are illegal, by their fields, and that an illegal word executes as the ILLEGAL response. -/
def Obligations.IllegalWordsByField : Prop :=
  ∀ w : CmdWord,
    ((∃ r, decode w = .error r) ↔
      ((w >>> 12 = 0 ∨ 8 ≤ (w >>> 12).toNat) ∨ (w >>> 8) &&& 0xF#16 ≠ 0 ∨
        ((w >>> 12).toNat ∈ [2, 3, 5, 7] ∧ w &&& 0xFF#16 ≠ 0))) ∧
    ((∃ r, decode w = .error r) → ∀ s : State, execWord w s = illegalResponse s)

/-- R84: 772 of the 65536 words are legal. -/
def Obligations.LegalWordCount : Prop :=
  ∃ ws : List CmdWord, ws.Nodup ∧ ws.length = 772 ∧ ∀ w : CmdWord, w ∈ ws ↔ ∃ i, decode w = .ok i

/-- R81, R83: words written out from the encodings, and a few that are none (95_test_vectors.md 2.9). -/
def Obligations.SampleWordsDecode : Prop :=
  decode 0x1054#16 = .ok (.push 0x54#8) ∧ decode 0x2000#16 = .ok .attempt ∧ decode 0x3000#16 = .ok .drain ∧
  decode 0x40FF#16 = .ok (.point 255#8) ∧ decode 0x5000#16 = .ok .crcclr ∧ decode 0x6000#16 = .ok (.crcb 0#8) ∧
  decode 0x7000#16 = .ok .fail ∧ decode 0x2001#16 = .error .badImm ∧ decode 0x4100#16 = .error .badZ ∧
  decode 0x0000#16 = .error .badOp ∧ decode 0x8000#16 = .error .badOp

/-! ### The step -/

/-- A step runs the decoded command: the first event of the port is taken, and a legal word is exec of its command; and a
word put first on the port is the next one run (R16, R62, R79; the port is the model's, log 3). -/
def Obligations.StepRunsDecodedCommand : Prop :=
  (∀ (s : State) (w : CmdWord) (rest : List PortEvent) (i : Instr),
    s.port = .word w :: rest → decode w = .ok i → step s = exec i { s with port := rest }) ∧
  (∀ (s : State) (nbits w : Nat) (i : Instr),
    decodeTableWord nbits w = some i → step (s.withFetchWord nbits w) = exec i s)

/-- R203: an illegal word, while FATAL = 0, sets STATUS to ILLEGAL and changes nothing else; the next legal word executes
normally. -/
def Obligations.IllegalWordOnlyReports : Prop :=
  ∀ (s : State) (w : CmdWord) (rest : List PortEvent) (r : Illegal),
    s.port = .word w :: rest → decode w = .error r → s.fatal = false →
      step s = .next { s with port := rest, status := 0xB#4 } ∧
      ∀ (w' : CmdWord) (rest' : List PortEvent) (i : Instr), rest = .word w' :: rest' → decode w' = .ok i →
        step { s with port := rest, status := 0xB#4 } = exec i { s with port := rest', status := 0xB#4 }

/-- R202: while FATAL = 1 every command word, legal or illegal, changes no state, STATUS included; only reset clears
FATAL. -/
def Obligations.FatalStateFreezes : Prop :=
  (∀ (s : State) (w : CmdWord) (rest : List PortEvent),
    s.fatal = true → s.port = .word w :: rest → step s = .next { s with port := rest }) ∧
  (∀ (s t : State), s.fatal = true → step s = .next t → t.fatal = false → ∃ rest, s.port = .reset :: rest)

/-- R230: the reset signal sets every state element to its reset value, from any state, and does not change the
parameters. The events still to come are the caller's, not state of the block (log 3). -/
def Obligations.ResetSignalClearsAll : Prop :=
  ∀ (s : State) (rest : List PortEvent), s.port = .reset :: rest →
    step s = .next
      { cfg := s.cfg, port := rest, buf := [], status := 0x0#4, need := 0#7, fatal := false, crcAcc := 0x00#8
        pkt :=
          { valid := false, ver := 0#3, n := 0#5, speed := 0#16, startAngle := 0#16
            dist := Vector.replicate 31 0#16, conf := Vector.replicate 31 0#8
            endAngle := 0#16, ts := 0#16, crc := 0#8 }
        pt := { valid := false, idx := 0#5, span := 0#17, num := 0#22, den := 0#12, dist := 0#32, conf := 0#8 } }

/-- R37: the reset values. -/
def Obligations.ResetStateValues : Prop :=
  ∀ s : State, (s = State.reset ∨ ∃ c, s = State.resetWith c) →
    s.buf = [] ∧ s.status = 0x0#4 ∧ s.need = 0#7 ∧ s.fatal = false ∧ s.crcAcc = 0x00#8 ∧
    s.pkt.valid = false ∧ s.pkt.ver = 0#3 ∧ s.pkt.n = 0#5 ∧ s.pkt.speed = 0#16 ∧ s.pkt.startAngle = 0#16 ∧
    (∀ k : Fin 31, s.pkt.dist[k] = 0#16 ∧ s.pkt.conf[k] = 0#8) ∧
    s.pkt.endAngle = 0#16 ∧ s.pkt.ts = 0#16 ∧ s.pkt.crc = 0#8 ∧
    s.pt.valid = false ∧ s.pt.idx = 0#5 ∧ s.pt.span = 0#17 ∧ s.pt.num = 0#22 ∧ s.pt.den = 0#12 ∧
    s.pt.dist = 0#32 ∧ s.pt.conf = 0#8

/-- R12, R16, R205, R240: every command completes with a next state in every state, and so does every event of the port;
a step without an event is refused (the model's reading of R16, log 4). -/
def Obligations.EveryCommandCompletes : Prop :=
  (∀ (i : Instr) (s : State), ∃ t, exec i s = .next t) ∧
  (∀ s : State, s.port ≠ [] → ∃ t, step s = .next t) ∧
  (∀ s : State, s.port = [] → step s = .refused .noCommand)

/-! ### PUSH -/

/-- R120: PUSH b appends b, or reports FULL; NEED, PKT, PT and CRC_ACC are untouched; on a full buffer an ATTEMPT then
removes at least one byte. -/
def Obligations.PushAppendsOrReportsFull : Prop :=
  ∀ (s : State) (b : Byte),
    encode (.push b) = 0x1000#16 ||| b.zeroExtend 16 ∧
    (s.fatal = true → exec (.push b) s = .next s) ∧
    (s.fatal = false → s.buf.length = s.cfg.bufCapacity →
      exec (.push b) s = .next { s with status := 0x6#4 } ∧
      (104 ≤ s.cfg.bufCapacity → ∃ t, exec .attempt { s with status := 0x6#4 } = .next t ∧
        t.buf.length < s.buf.length)) ∧
    (s.fatal = false → s.buf.length ≠ s.cfg.bufCapacity →
      exec (.push b) s = .next { s with buf := s.buf ++ [b], status := 0x5#4 })

/-! ### ATTEMPT -/

/-- R123: fewer than 2 bytes buffered. Nothing but STATUS and NEED is written, whatever the one byte is. -/
def Obligations.AttemptHeaderStage : Prop :=
  ∀ s : State, s.fatal = false → s.buf.length < 2 →
    ∃ t, exec .attempt s = .next t ∧ t = { s with status := 0x1#4, need := t.need } ∧
      t.need.toNat = 2 - s.buf.length

/-- R124: the first byte is not the indicator. Exactly that byte is removed and RESYNC reported; NEED becomes 0. -/
def Obligations.AttemptResync : Prop :=
  ∀ s : State, s.fatal = false → 2 ≤ s.buf.length → byteAt s.buf 0 ≠ s.cfg.headerIndicator →
    exec .attempt s = .next { s with buf := s.buf.tail, status := 0x2#4, need := 0#7 }

/-- R125: the indicator stands first and the frame is not complete. The amount is L − len(BUF), 1 to 102. -/
def Obligations.AttemptBodyStage : Prop :=
  ∀ s : State, s.fatal = false → 2 ≤ s.buf.length → byteAt s.buf 0 = s.cfg.headerIndicator →
    ∀ L : Nat, L = 11 + 3 * (byteAt s.buf 1 &&& 0x1F#8).toNat → s.buf.length < L →
      ∃ t, exec .attempt s = .next t ∧ t = { s with status := 0x1#4, need := t.need } ∧
        t.need.toNat = L - s.buf.length ∧ 1 ≤ t.need.toNat ∧ t.need.toNat ≤ 102

/-- R126, R127, with the check of R103: the candidate fails its checksum. Its L bytes are removed, REJECTED is reported,
and no packet register and no point register changes. -/
def Obligations.AttemptRejects : Prop :=
  ∀ s : State, s.fatal = false → 2 ≤ s.buf.length → byteAt s.buf 0 = s.cfg.headerIndicator →
    ∀ L : Nat, L = 11 + 3 * (byteAt s.buf 1 &&& 0x1F#8).toNat → L ≤ s.buf.length →
      crc8 s.cfg (s.buf.take (L - 1)) ≠ byteAt s.buf (L - 1) →
        exec .attempt s = .next { s with buf := s.buf.drop L, status := 0x3#4, need := 0#7 }

/-- R128, R150, R151, with the byte order of R53: the candidate passes. Its L bytes are removed, every PKT_* register gets
its field, unused slots are 0, PT_VALID is cleared, and nothing else changes. -/
def Obligations.AttemptProducesPacket : Prop :=
  ∀ s : State, s.fatal = false → 2 ≤ s.buf.length → byteAt s.buf 0 = s.cfg.headerIndicator →
    ∀ N L : Nat, N = (byteAt s.buf 1 &&& 0x1F#8).toNat → L = 11 + 3 * N → L ≤ s.buf.length →
      crc8 s.cfg (s.buf.take (L - 1)) = byteAt s.buf (L - 1) →
        exec .attempt s = .next
          { s with
            buf := s.buf.drop L
            status := 0x4#4
            need := 0#7
            pkt :=
              { valid := true
                ver := (byteAt s.buf 1 >>> 5).setWidth 3
                n := BitVec.ofNat 5 N
                speed := byteAt s.buf 3 ++ byteAt s.buf 2
                startAngle := byteAt s.buf 5 ++ byteAt s.buf 4
                dist := Vector.ofFn fun k : Fin 31 =>
                  if k.val < N then byteAt s.buf (7 + 3 * k.val) ++ byteAt s.buf (6 + 3 * k.val) else 0#16
                conf := Vector.ofFn fun k : Fin 31 =>
                  if k.val < N then byteAt s.buf (8 + 3 * k.val) else 0#8
                endAngle := byteAt s.buf (7 + 3 * N) ++ byteAt s.buf (6 + 3 * N)
                ts := byteAt s.buf (9 + 3 * N) ++ byteAt s.buf (8 + 3 * N)
                crc := byteAt s.buf (10 + 3 * N) }
            pt := { s.pt with valid := false } }

/-- R132: a NEED_MORE attempt leaves BUF, and a second ATTEMPT changes nothing. -/
def Obligations.NeedMoreIsIdempotent : Prop :=
  ∀ s t : State, s.fatal = false → exec .attempt s = .next t → t.status = 0x1#4 →
    t.buf = s.buf ∧ exec .attempt t = .next t

/-- R134: with 104 bytes or more buffered an attempt removes at least one byte, so an ATTEMPT on a full BUF makes room. -/
def Obligations.FullBufferMakesProgress : Prop :=
  (∀ (cfg : Config) (B : List Byte), 104 ≤ B.length →
    (attemptCore cfg B).outcome ≠ .needMore ∧ (attemptCore cfg B).rest.length < B.length) ∧
  (∀ s : State, s.cfg.wf → s.fatal = false → s.buf.length = s.cfg.bufCapacity →
    ∃ t, exec .attempt s = .next t ∧ t.buf.length < s.cfg.bufCapacity ∧
      ∀ b : Byte, exec (.push b) t = .next { t with buf := t.buf ++ [b], status := 0x5#4 })

/-- R135: appending bytes does not change a decided attempt. -/
def Obligations.AppendKeepsDecidedAttempt : Prop :=
  ∀ (cfg : Config) (B t : List Byte),
    ((attemptCore cfg B).outcome ≠ .needMore →
      attemptCore cfg (B ++ t) = { attemptCore cfg B with rest := (attemptCore cfg B).rest ++ t }) ∧
    ((attemptCore cfg B).outcome = .needMore → t.length < (attemptCore cfg B).amount →
      attemptCore cfg (B ++ t) = ⟨.needMore, (attemptCore cfg B).amount - t.length, B ++ t, none⟩)

/-- R34: what the phase says of the next attempt. FrameReady covers PACKET and REJECTED, which are outcomes, not
phases. -/
def Obligations.PhaseTellsOutcome : Prop :=
  ∀ (cfg : Config) (B : List Byte),
    (phase cfg B = .frameReady ↔ (attemptCore cfg B).outcome = .packet ∨ (attemptCore cfg B).outcome = .rejected) ∧
    (phase cfg B = .awaitingBody → (attemptCore cfg B).outcome = .needMore) ∧
    (phase cfg B = .awaitingHeader →
      (attemptCore cfg B).outcome = if B.length < 2 then .needMore else .resync)

/-! ### DRAIN and the stream -/

/-- R130: DRAIN is ATTEMPT when the attempt gives NEED_MORE or PACKET, and goes on from the attempt's result when it gives
RESYNC or REJECTED; it completes with NEED_MORE or PACKET, never RESYNC or REJECTED. -/
def Obligations.DrainAttemptsUntilSettled : Prop :=
  encode .drain = 0x3000#16 ∧
  ∀ s : State,
    (s.fatal = true → exec .drain s = .next s) ∧
    (s.fatal = false →
      (∃ u, exec .drain s = .next u ∧ (u.status = 0x1#4 ∨ u.status = 0x4#4)) ∧
      ∀ t, exec .attempt s = .next t →
        ((t.status = 0x1#4 ∨ t.status = 0x4#4) → exec .drain s = .next t) ∧
        ((t.status = 0x2#4 ∨ t.status = 0x3#4) → exec .drain s = exec .drain t))

/-- R130, D20: "DRAIN equals a sequence of ATTEMPTs stopped at NEED_MORE or PACKET", at most len(BUF) + 1 of
them. The loop of ATTEMPTs, attemptUntil, is the model's (log 14). -/
def Obligations.DrainRefinesAttempts : Prop :=
  ∀ s : State, s.fatal = false → exec .drain s = .next (attemptUntil s.buf.length s)

/-- R136: the packets a caller reads, and the bytes left, do not depend on how the stream is split into chunks, nor on
polling with ATTEMPT or DRAIN, provided no PUSH got FULL. The caller's loop, each chunk pushed whole and then polled with one
of the two commands, is the model's choice (log 14). -/
def Obligations.FragmentationIndependence : Prop :=
  ∀ (s : State) (chunks : List (List Byte × Poll)),
    s.fatal = false → s.buf = [] → (runChunks chunks s).full = false →
      (runChunks chunks s).packets = packetsOf s.cfg (chunks.flatMap Prod.fst) ∧
      (runChunks chunks s).state.buf = restOf s.cfg (chunks.flatMap Prod.fst)

/-- R137, R63: the stream is consumed as disjoint consecutive pieces, each one noise byte or one whole candidate, and the
packets are those of the candidates that pass, in order. packetsOf and restOf are those of R136, with a fuel (log 14). -/
def Obligations.StreamSplitsIntoFrames : Prop :=
  ∀ (cfg : Config) (S : List Byte), ∃ pieces : List (List Byte × Option Packet),
    S = pieces.flatMap Prod.fst ++ restOf cfg S ∧
    packetsOf cfg S = pieces.filterMap Prod.snd ∧
    (attemptCore cfg (restOf cfg S)).outcome = .needMore ∧
    ∀ x ∈ pieces,
      (x.1.length = 1 ∧ byteAt x.1 0 ≠ cfg.headerIndicator ∧ x.2 = none) ∨
      (byteAt x.1 0 = cfg.headerIndicator ∧ x.1.length = 11 + 3 * (byteAt x.1 1 &&& 0x1F#8).toNat ∧
        x.2 = if frameOk cfg x.1 then some (decodeFrame x.1) else none)

/-- R133, C2: one noise byte that is not the indicator, before a valid frame, costs exactly itself: DRAIN recovers the
frame. -/
def Obligations.NoiseByteIsDiscarded : Prop :=
  ∀ (s : State) (b : Byte) (f t : List Byte),
    s.fatal = false → b ≠ s.cfg.headerIndicator → s.buf = b :: (f ++ t) → 2 ≤ f.length →
    byteAt f 0 = s.cfg.headerIndicator → f.length = 11 + 3 * (byteAt f 1 &&& 0x1F#8).toNat → frameOk s.cfg f = true →
      exec .drain s = .next
        { s with buf := t, status := 0x4#4, need := 0#7, pkt := pktRegsOf (decodeFrame f)
                 pt := { s.pt with valid := false } }

/-! ### Packets -/

/-- R156: decoding and encoding a frame are inverse, on frames that pass and on packets with their own checksum. -/
def Obligations.PacketWireRoundTrip : Prop :=
  (∀ (cfg : Config) (f : List Byte), 2 ≤ f.length → byteAt f 0 = cfg.headerIndicator →
    f.length = 11 + 3 * (byteAt f 1 &&& 0x1F#8).toNat → frameOk cfg f = true →
      encodePacket cfg.headerIndicator (decodeFrame f) = f) ∧
  (∀ (cfg : Config) (p : Packet), p.wf →
    p.crc = crc8 cfg ((encodePacket cfg.headerIndicator p).take (frameLen p.n - 1)) →
      decodeFrame (encodePacket cfg.headerIndicator p) = p)

/-- R128, R151, R154, R156: the wire bytes of a packet with its own checksum, first in BUF, are decoded by one ATTEMPT into
that packet, sample order kept. -/
def Obligations.EncodedPacketIsReceived : Prop :=
  ∀ (s : State) (p : Packet) (t : List Byte), s.fatal = false → p.wf →
    p.crc = crc8 s.cfg (packetBody s.cfg.headerIndicator p) →
    s.buf = encodePacket s.cfg.headerIndicator p ++ t →
      ∃ u, exec .attempt s = .next u ∧ u.status = 0x4#4 ∧ u.buf = t ∧ u.pkt.valid = true ∧ packetOfRegs u.pkt = p

/-- R155: the packet registers change only by a PACKET outcome, of ATTEMPT or DRAIN, and by reset. -/
def Obligations.PacketRegistersChangeOnlyByPacket : Prop :=
  ∀ s t : State, step s = .next t → t.pkt ≠ s.pkt →
    (∃ rest, s.port = .reset :: rest) ∨
    (∃ w rest, s.port = .word w :: rest ∧ (w = 0x2000#16 ∨ w = 0x3000#16) ∧ t.status = 0x4#4 ∧ t.pkt.valid = true)

/-! ### Checksum unit -/

/-- R100: the 256 listed entries are those of the MSB-first CRC-8 with polynomial 0x4D. -/
def Obligations.DefaultTableIsCrc4D : Prop :=
  ∀ i : Fin 256, crcTableDefault[i] = crcShift8 (BitVec.ofFin i)

/-- R104: CRCCLR. -/
def Obligations.CrcclrClears : Prop :=
  encode .crcclr = 0x5000#16 ∧
  ∀ s : State,
    (s.fatal = true → exec .crcclr s = .next s) ∧
    (s.fatal = false → exec .crcclr s = .next { s with crcAcc := 0x00#8, status := 0xA#4 })

/-- R101, R105 (its pseudocode): CRCB b looks the table up at CRC_ACC XOR b. -/
def Obligations.CrcbLooksTableUp : Prop :=
  ∀ (s : State) (b : Byte),
    encode (.crcb b) = 0x6000#16 ||| b.zeroExtend 16 ∧
    (s.fatal = true → exec (.crcb b) s = .next s) ∧
    (s.fatal = false → exec (.crcb b) s = .next
      { s with crcAcc := s.cfg.crcTable[(s.crcAcc ^^^ b).toNat]'(s.crcAcc ^^^ b).isLt, status := 0xA#4 })

/-- R102, R105: CRCCLR and then CRCB for each byte of a sequence leave its crc8 in CRC_ACC, crc8 being the fold of the
table step from 0; BUF, NEED, PKT and PT keep their values. issueAll is the model's caller (log 14). -/
def Obligations.CrcUnitComputesCrc8 : Prop :=
  ∀ (s : State) (bytes : List Byte), s.fatal = false →
    issueAll (.crcclr :: bytes.map .crcb) s = { s with crcAcc := crc8 s.cfg bytes, status := 0xA#4 } ∧
    crc8 s.cfg [] = 0x00#8 ∧
    ∀ b : Byte, crc8 s.cfg (bytes ++ [b]) =
      s.cfg.crcTable[(crc8 s.cfg bytes ^^^ b).toNat]'(crc8 s.cfg bytes ^^^ b).isLt

/-- R105, R103: feeding a whole frame to the checksum unit leaves CRC_TABLE[0] when the frame passes, and only then where
the table is the default one (another table may repeat its entry 0). issueAll is the model's caller (log 14). -/
def Obligations.CrcUnitChecksFrame : Prop :=
  ∀ (s : State) (f : List Byte), s.fatal = false → f ≠ [] →
    (frameOk s.cfg f = true → (issueAll (.crcclr :: f.map .crcb) s).crcAcc = s.cfg.crcTable[0]) ∧
    (s.cfg.crcTable = crcTableDefault → (issueAll (.crcclr :: f.map .crcb) s).crcAcc = s.cfg.crcTable[0] →
      frameOk s.cfg f = true)

/-- R107 (its first sentence): with the default table, a change of one bit in offsets 2 to L − 1 of a valid frame, or in
the version bits of offset 1, makes the ATTEMPT reject the candidate. In offset 0 or the count bits it need not (C3). -/
def Obligations.SingleBitErrorIsRejected : Prop :=
  ∀ (s : State) (f t : List Byte) (k : Nat) (j : Fin 8),
    s.cfg.crcTable = crcTableDefault → s.fatal = false → 2 ≤ f.length → byteAt f 0 = s.cfg.headerIndicator →
    f.length = 11 + 3 * (byteAt f 1 &&& 0x1F#8).toNat → frameOk s.cfg f = true →
    k < f.length → (2 ≤ k ∨ (k = 1 ∧ 5 ≤ j.val)) →
    s.buf = f.set k (byteAt f k ^^^ (1#8 <<< j.val)) ++ t →
      exec .attempt s = .next { s with buf := t, status := 0x3#4, need := 0#7 }

/-! ### POINT -/

/-- R173, with R170, R172 and R174: POINT i. The span, the numerator and the denominator are the exact integers, none of
them cut off by its register. -/
def Obligations.PointComputesAngle : Prop :=
  ∀ (s : State) (b : Byte),
    encode (.point b) = 0x4000#16 ||| b.zeroExtend 16 ∧
    (s.fatal = true → exec (.point b) s = .next s) ∧
    (s.fatal = false → s.pkt.valid = false → exec (.point b) s = .next { s with status := 0x9#4 }) ∧
    (s.fatal = false → s.pkt.valid = true → s.pkt.n.toNat ≤ b.toNat →
      exec (.point b) s = .next { s with status := 0x8#4 }) ∧
    (s.fatal = false → s.pkt.valid = true → b.toNat < s.pkt.n.toNat →
      ∀ S E N i x sp a : Int,
        S = s.pkt.startAngle.toNat → E = s.pkt.endAngle.toNat → N = s.pkt.n.toNat → i = b.toNat →
        x = E + 36000 - S →
        sp = (match s.cfg.spanMod with
          | .euclid => x % 36000
          | .trunc => x - 36000 * x.tdiv 36000) →
        a = S * N + sp * i →
        ∃ t, exec (.point b) s = .next t ∧ t = { s with pt := t.pt, status := 0x7#4 } ∧
          t.pt.valid = true ∧ (t.pt.idx.toNat : Int) = i ∧ t.pt.span.toInt = sp ∧
          (t.pt.num.toNat : Int) = (if a > 36000 * N then a - 36000 * N else a) ∧
          (t.pt.den.toNat : Int) = 100 * N ∧
          (∃ h : b.toNat < 31, t.pt.dist.toNat = (s.pkt.dist[b.toNat]'h).toNat ∧
            t.pt.conf = s.pkt.conf[b.toNat]'h) ∧
          exec (.point b) t = .next t)

/-- R175: a packet with N = 0 has no points. -/
def Obligations.ZeroSamplesHaveNoPoint : Prop :=
  ∀ (s : State) (b : Byte), s.fatal = false → s.pkt.valid = true → s.pkt.n = 0#5 →
    exec (.point b) s = .next { s with status := 0x8#4 }

/-- R176: the bounds of span, numerator and denominator, under both values of SPAN_MOD. -/
def Obligations.PointValuesBounded : Prop :=
  ∀ (cfg : Config) (r : PktRegs) (i : Nat), i < r.n.toNat →
    -29535 ≤ span cfg r ∧ span cfg r ≤ 35999 ∧
    0 ≤ (r.startAngle.toNat : Int) * r.n.toNat + span cfg r * i ∧
    (r.startAngle.toNat : Int) * r.n.toNat + span cfg r * i ≤ 3111555 ∧
    0 ≤ angleNum cfg r i ∧ angleNum cfg r i ≤ 3111555 ∧
    100 ≤ angleDen r ∧ angleDen r ≤ 3100

/-- R171: the two readings of `mod` agree whenever x ≥ 0; they differ only when S > E + 36000, where EUCLID gives
x + 36000 and TRUNC gives x. -/
def Obligations.SpanReadingsCompared : Prop :=
  ∀ (c d : Config) (r : PktRegs), c.spanMod = .euclid → d.spanMod = .trunc →
    (r.startAngle.toNat ≤ r.endAngle.toNat + 36000 → span c r = span d r) ∧
    (r.startAngle.toNat > r.endAngle.toNat + 36000 →
      36001 ≤ r.startAngle.toNat ∧
      span c r = (r.endAngle.toNat : Int) + 36000 - r.startAngle.toNat + 36000 ∧
      span d r = (r.endAngle.toNat : Int) + 36000 - r.startAngle.toNat)

/-- R172: the angle of sample i is the source's formula in degrees, exactly, with `mod 360` by floor for EUCLID and toward
zero for TRUNC. -/
def Obligations.AngleIsExactFormula : Prop :=
  ∀ (cfg : Config) (r : PktRegs) (i : Nat), i < r.n.toNat →
    ∀ s e x m a : ℚ,
      s = r.startAngle.toNat / 100 → e = r.endAngle.toNat / 100 → x = (e + 360) - s →
      m = (match cfg.spanMod with
        | .euclid => x - 360 * (⌊x / 360⌋ : ℤ)
        | .trunc => x - 360 * (if x < 0 then ⌈x / 360⌉ else ⌊x / 360⌋ : ℤ)) →
      a = s + m * (i / r.n.toNat) →
      angleDeg cfg r i = if a > 360 then a - 360 else a

/-- R177: one correction only. Exactly 360° stays; a start above 360° gives an angle above 0; what exceeds 720° still
exceeds 360°; the largest angle is 1995555 / 3100 degrees. -/
def Obligations.OneCorrectionOnly : Prop :=
  ∀ (cfg : Config) (r : PktRegs) (i : Nat), i < r.n.toNat →
    ∀ a : Int, a = (r.startAngle.toNat : Int) * r.n.toNat + span cfg r * i →
      (a = 36000 * r.n.toNat → angleDeg cfg r i = 360) ∧
      (36000 < r.startAngle.toNat → i = 0 → 0 < angleDeg cfg r i) ∧
      (a > 72000 * r.n.toNat → angleDeg cfg r i > 360) ∧
      angleDeg cfg r i ≤ 1995555 / 3100

/-- R179: POINT reads only the packet registers and SPAN_MOD (and FATAL, R202), and writes only the point registers and
STATUS. -/
def Obligations.PointIsPure : Prop :=
  ∀ (s u : State) (b : Byte), s.fatal = false → u.fatal = false → s.pkt = u.pkt → s.cfg.spanMod = u.cfg.spanMod →
    ∃ s' u', exec (.point b) s = .next s' ∧ exec (.point b) u = .next u' ∧
      s' = { s with pt := s'.pt, status := s'.status } ∧ u' = { u with pt := u'.pt, status := u'.status } ∧
      s'.status = u'.status ∧ (s'.pt = u'.pt ∨ (s'.pt = s.pt ∧ u'.pt = u.pt)) ∧
      (s'.status = 0x7#4 → s'.pt = u'.pt)

/-! ### FAIL and FATAL -/

/-- R201: FAIL sets FATAL and reports it; BUF, PKT and PT keep their values and no command changes them again. -/
def Obligations.FailStopsBlock : Prop :=
  encode .fail = 0x7000#16 ∧
  ∀ s : State,
    (s.fatal = true → exec .fail s = .next s) ∧
    (s.fatal = false → exec .fail s = .next { s with fatal := true, status := 0xC#4 } ∧
      ∀ i : Instr, exec i { s with fatal := true, status := 0xC#4 } = .next { s with fatal := true, status := 0xC#4 })

/-- R27: FATAL is written to 1 only by FAIL and cleared only by reset; it is 0 after reset. -/
def Obligations.FatalWrittenOnlyByFailAndReset : Prop :=
  State.reset.fatal = false ∧
  ∀ s t : State, step s = .next t →
    (s.fatal = false → t.fatal = true → ∃ rest, s.port = .word 0x7000#16 :: rest) ∧
    (s.fatal = true → t.fatal = false → ∃ rest, s.port = .reset :: rest)

/-! ### Frames, for every command -/

/-- R36: the write matrix. Each line names the only registers its command may write; of the point registers ATTEMPT and
DRAIN write PT_VALID alone. The caller's events and the parameters are no column of it and are kept too. -/
def Obligations.WriteMatrix : Prop :=
  (∀ (s t : State) (b : Byte), exec (.push b) s = .next t → t = { s with buf := t.buf, status := t.status }) ∧
  (∀ s t : State, exec .attempt s = .next t ∨ exec .drain s = .next t →
    t = { s with buf := t.buf, status := t.status, need := t.need, pkt := t.pkt
                 pt := { s.pt with valid := t.pt.valid } }) ∧
  (∀ (s t : State) (b : Byte), exec (.point b) s = .next t → t = { s with status := t.status, pt := t.pt }) ∧
  (∀ s t : State, exec .crcclr s = .next t → t = { s with status := t.status, crcAcc := t.crcAcc }) ∧
  (∀ (s t : State) (b : Byte), exec (.crcb b) s = .next t → t = { s with status := t.status, crcAcc := t.crcAcc }) ∧
  (∀ s t : State, exec .fail s = .next t → t = { s with status := t.status, fatal := t.fatal }) ∧
  (∀ s t : State, illegalResponse s = .next t → t = { s with status := t.status }) ∧
  (∀ (s t : State) (i : Instr), s.fatal = true → exec i s = .next t ∨ illegalResponse s = .next t → t = s)

/-- R21: no command writes the parameters and reset does not change them. -/
def Obligations.ParametersNeverChange : Prop :=
  ∀ s t : State, step s = .next t → t.cfg = s.cfg

/-- R24, R58: BUF changes only by PUSH at the back, one byte, and by ATTEMPT (0, 1 or L bytes) and DRAIN at the front. -/
def Obligations.BufferChangesOnlyAtEnds : Prop :=
  ∀ (i : Instr) (s t : State), exec i s = .next t →
    t.buf = s.buf ∨
    (∃ b, i = .push b ∧ t.buf = s.buf ++ [b]) ∨
    (i = .attempt ∧ ∃ k, t.buf = s.buf.drop k ∧ k ≤ s.buf.length ∧
      (k = 1 ∨ k = 11 + 3 * (byteAt s.buf 1 &&& 0x1F#8).toNat)) ∨
    (i = .drain ∧ ∃ k, t.buf = s.buf.drop k ∧ k ≤ s.buf.length)

/-- R85, R25: which STATUS codes each command writes while FATAL = 0; IDLE is written by none, nor are 0xD to 0xF. -/
def Obligations.StatusCodesByCommand : Prop :=
  ∀ (s t : State), s.fatal = false →
    (∀ b, exec (.push b) s = .next t → t.status = 0x5#4 ∨ t.status = 0x6#4) ∧
    (exec .attempt s = .next t → t.status = 0x1#4 ∨ t.status = 0x2#4 ∨ t.status = 0x3#4 ∨ t.status = 0x4#4) ∧
    (exec .drain s = .next t → t.status = 0x1#4 ∨ t.status = 0x4#4) ∧
    (∀ b, exec (.point b) s = .next t → t.status = 0x7#4 ∨ t.status = 0x8#4 ∨ t.status = 0x9#4) ∧
    (exec .crcclr s = .next t → t.status = 0xA#4) ∧
    (∀ b, exec (.crcb b) s = .next t → t.status = 0xA#4) ∧
    (exec .fail s = .next t → t.status = 0xC#4) ∧
    (illegalResponse s = .next t → t.status = 0xB#4)

/-- R26: NEED after an ATTEMPT or a DRAIN is the amount of a NEED_MORE outcome, 1 to 102, or 0 after any other; no other
command writes it. -/
def Obligations.NeedHoldsAmount : Prop :=
  (∀ s t : State, s.fatal = false → exec .attempt s = .next t ∨ exec .drain s = .next t →
    (t.status = 0x1#4 → 1 ≤ t.need.toNat ∧ t.need.toNat ≤ 102 ∧ t.need.toNat = (attemptCore t.cfg t.buf).amount) ∧
    (t.status ≠ 0x1#4 → t.need = 0#7)) ∧
  (∀ (i : Instr) (s t : State), exec i s = .next t → t.need ≠ s.need → i = .attempt ∨ i = .drain)

/-- R28, R103: ATTEMPT and DRAIN neither use nor change CRC_ACC. -/
def Obligations.FramePathIgnoresCrcAcc : Prop :=
  ∀ (s t : State) (c : Byte),
    (exec .attempt s = .next t → exec .attempt { s with crcAcc := c } = .next { t with crcAcc := c }) ∧
    (exec .drain s = .next t → exec .drain { s with crcAcc := c } = .next { t with crcAcc := c })

/-- R33, R131: no command reads STATUS or NEED: with other values there, a command makes the same writes. -/
def Obligations.StatusAndNeedAreNeverRead : Prop :=
  ∀ (i : Instr) (s t : State) (c : BitVec 4) (n : BitVec 7), s.fatal = false → exec i s = .next t →
    ∃ u, exec i { s with status := c, need := n } = .next u ∧ u = { t with need := u.need } ∧
      (i = .attempt ∨ i = .drain → u.need = t.need) ∧ (u.need = t.need ∨ u.need = n)

/-- R20, R35: the result port shows all the state: two blocks with the same parameters and the same events to come whose
registers read the same are in the same state. -/
def Obligations.ResultPortShowsAllState : Prop :=
  ∀ s u : State, s.cfg = u.cfg → s.port = u.port → (∀ r : ResultReg, readResult s r = readResult u r) → s = u

/-! ### Invariant -/

/-- R37, R23, R85: the state after reset meets the invariant, for all legal parameters. -/
def Obligations.ResetMeetsInv : Prop :=
  State.reset.Inv ∧ ∀ c : Config, c.wf → (State.resetWith c).Inv

/-- R23, R26, R30, R32, R85, R128, R202: every step keeps the invariant (Safety.lean): BUF within its bound, STATUS a named
code, NEED at most 102, FATAL with its status, unused slots zero, the packet held is one that passed its checksum, PT_* a
point of the packet now in PKT when PT_VALID = 1, and the point ranges. -/
def Obligations.StepKeepsInv : Prop :=
  ∀ s t : State, s.Inv → step s = .next t → t.Inv

/-! ### Text form -/

/-- R87: the expansions of the pseudo-commands, for operands in range; R86: an operand out of range is an error, not a
word. -/
def Obligations.PseudoCommandsExpand : Prop :=
  (∀ bs : List Byte, bs ≠ [] →
    assembleLine (.feed (bs.map BitVec.toNat)) = .ok (bs.map fun b => encode (.push b)) ∧
    assembleLine (.crcseq (bs.map BitVec.toNat)) = .ok (encode .crcclr :: bs.map fun b => encode (.crcb b))) ∧
  (∀ n : Nat, n ≤ 256 →
    assembleLine (.points n) = .ok ((List.range n).map fun i => encode (.point (BitVec.ofNat 8 i)))) ∧
  (∀ b : Nat, 255 < b → assembleLine (.push b) = .error .operandRange ∧
    assembleLine (.point b) = .error .operandRange ∧ assembleLine (.crcb b) = .error .operandRange)

/-- R87, R120, R62: a FEED line put on the command port appends its bytes to BUF in order, one step a byte, when they
fit. -/
def Obligations.FeedProgramFillsBuffer : Prop :=
  ∀ (s : State) (bs : List Byte) (ws : List CmdWord),
    s.fatal = false → bs ≠ [] → s.buf.length + bs.length ≤ s.cfg.bufCapacity →
    assembleLine (.feed (bs.map BitVec.toNat)) = .ok ws → s.port = ws.map .word →
      core.run bs.length s = .next { s with port := [], buf := s.buf ++ bs, status := 0x5#4 }
end

