-- ==== Sys2Proof/Laws/State.lean ====
section
/-! SUPPORT. One lemma per field per update of State, true by rfl, so that no later proof unfolds an update; and the fields of
the state after reset. -/

namespace Sys2Proof.Machine

variable (s : State)

@[simp] theorem State.setBuf_cfg (v : List Byte) : (s.setBuf v).cfg = s.cfg := rfl
@[simp] theorem State.setBuf_port (v : List Byte) : (s.setBuf v).port = s.port := rfl
@[simp] theorem State.setBuf_buf (v : List Byte) : (s.setBuf v).buf = v := rfl
@[simp] theorem State.setBuf_status (v : List Byte) : (s.setBuf v).status = s.status := rfl
@[simp] theorem State.setBuf_need (v : List Byte) : (s.setBuf v).need = s.need := rfl
@[simp] theorem State.setBuf_fatal (v : List Byte) : (s.setBuf v).fatal = s.fatal := rfl
@[simp] theorem State.setBuf_crcAcc (v : List Byte) : (s.setBuf v).crcAcc = s.crcAcc := rfl
@[simp] theorem State.setBuf_pkt (v : List Byte) : (s.setBuf v).pkt = s.pkt := rfl
@[simp] theorem State.setBuf_pt (v : List Byte) : (s.setBuf v).pt = s.pt := rfl

@[simp] theorem State.setStatus_cfg (v : BitVec 4) : (s.setStatus v).cfg = s.cfg := rfl
@[simp] theorem State.setStatus_port (v : BitVec 4) : (s.setStatus v).port = s.port := rfl
@[simp] theorem State.setStatus_buf (v : BitVec 4) : (s.setStatus v).buf = s.buf := rfl
@[simp] theorem State.setStatus_status (v : BitVec 4) : (s.setStatus v).status = v := rfl
@[simp] theorem State.setStatus_need (v : BitVec 4) : (s.setStatus v).need = s.need := rfl
@[simp] theorem State.setStatus_fatal (v : BitVec 4) : (s.setStatus v).fatal = s.fatal := rfl
@[simp] theorem State.setStatus_crcAcc (v : BitVec 4) : (s.setStatus v).crcAcc = s.crcAcc := rfl
@[simp] theorem State.setStatus_pkt (v : BitVec 4) : (s.setStatus v).pkt = s.pkt := rfl
@[simp] theorem State.setStatus_pt (v : BitVec 4) : (s.setStatus v).pt = s.pt := rfl

@[simp] theorem State.setNeed_cfg (v : BitVec 7) : (s.setNeed v).cfg = s.cfg := rfl
@[simp] theorem State.setNeed_port (v : BitVec 7) : (s.setNeed v).port = s.port := rfl
@[simp] theorem State.setNeed_buf (v : BitVec 7) : (s.setNeed v).buf = s.buf := rfl
@[simp] theorem State.setNeed_status (v : BitVec 7) : (s.setNeed v).status = s.status := rfl
@[simp] theorem State.setNeed_need (v : BitVec 7) : (s.setNeed v).need = v := rfl
@[simp] theorem State.setNeed_fatal (v : BitVec 7) : (s.setNeed v).fatal = s.fatal := rfl
@[simp] theorem State.setNeed_crcAcc (v : BitVec 7) : (s.setNeed v).crcAcc = s.crcAcc := rfl
@[simp] theorem State.setNeed_pkt (v : BitVec 7) : (s.setNeed v).pkt = s.pkt := rfl
@[simp] theorem State.setNeed_pt (v : BitVec 7) : (s.setNeed v).pt = s.pt := rfl

@[simp] theorem State.setFatal_cfg (v : Bool) : (s.setFatal v).cfg = s.cfg := rfl
@[simp] theorem State.setFatal_port (v : Bool) : (s.setFatal v).port = s.port := rfl
@[simp] theorem State.setFatal_buf (v : Bool) : (s.setFatal v).buf = s.buf := rfl
@[simp] theorem State.setFatal_status (v : Bool) : (s.setFatal v).status = s.status := rfl
@[simp] theorem State.setFatal_need (v : Bool) : (s.setFatal v).need = s.need := rfl
@[simp] theorem State.setFatal_fatal (v : Bool) : (s.setFatal v).fatal = v := rfl
@[simp] theorem State.setFatal_crcAcc (v : Bool) : (s.setFatal v).crcAcc = s.crcAcc := rfl
@[simp] theorem State.setFatal_pkt (v : Bool) : (s.setFatal v).pkt = s.pkt := rfl
@[simp] theorem State.setFatal_pt (v : Bool) : (s.setFatal v).pt = s.pt := rfl

@[simp] theorem State.setCrcAcc_cfg (v : Byte) : (s.setCrcAcc v).cfg = s.cfg := rfl
@[simp] theorem State.setCrcAcc_port (v : Byte) : (s.setCrcAcc v).port = s.port := rfl
@[simp] theorem State.setCrcAcc_buf (v : Byte) : (s.setCrcAcc v).buf = s.buf := rfl
@[simp] theorem State.setCrcAcc_status (v : Byte) : (s.setCrcAcc v).status = s.status := rfl
@[simp] theorem State.setCrcAcc_need (v : Byte) : (s.setCrcAcc v).need = s.need := rfl
@[simp] theorem State.setCrcAcc_fatal (v : Byte) : (s.setCrcAcc v).fatal = s.fatal := rfl
@[simp] theorem State.setCrcAcc_crcAcc (v : Byte) : (s.setCrcAcc v).crcAcc = v := rfl
@[simp] theorem State.setCrcAcc_pkt (v : Byte) : (s.setCrcAcc v).pkt = s.pkt := rfl
@[simp] theorem State.setCrcAcc_pt (v : Byte) : (s.setCrcAcc v).pt = s.pt := rfl

@[simp] theorem State.setPkt_cfg (v : PktRegs) : (s.setPkt v).cfg = s.cfg := rfl
@[simp] theorem State.setPkt_port (v : PktRegs) : (s.setPkt v).port = s.port := rfl
@[simp] theorem State.setPkt_buf (v : PktRegs) : (s.setPkt v).buf = s.buf := rfl
@[simp] theorem State.setPkt_status (v : PktRegs) : (s.setPkt v).status = s.status := rfl
@[simp] theorem State.setPkt_need (v : PktRegs) : (s.setPkt v).need = s.need := rfl
@[simp] theorem State.setPkt_fatal (v : PktRegs) : (s.setPkt v).fatal = s.fatal := rfl
@[simp] theorem State.setPkt_crcAcc (v : PktRegs) : (s.setPkt v).crcAcc = s.crcAcc := rfl
@[simp] theorem State.setPkt_pkt (v : PktRegs) : (s.setPkt v).pkt = v := rfl
@[simp] theorem State.setPkt_pt (v : PktRegs) : (s.setPkt v).pt = s.pt := rfl

@[simp] theorem State.setPt_cfg (v : PtRegs) : (s.setPt v).cfg = s.cfg := rfl
@[simp] theorem State.setPt_port (v : PtRegs) : (s.setPt v).port = s.port := rfl
@[simp] theorem State.setPt_buf (v : PtRegs) : (s.setPt v).buf = s.buf := rfl
@[simp] theorem State.setPt_status (v : PtRegs) : (s.setPt v).status = s.status := rfl
@[simp] theorem State.setPt_need (v : PtRegs) : (s.setPt v).need = s.need := rfl
@[simp] theorem State.setPt_fatal (v : PtRegs) : (s.setPt v).fatal = s.fatal := rfl
@[simp] theorem State.setPt_crcAcc (v : PtRegs) : (s.setPt v).crcAcc = s.crcAcc := rfl
@[simp] theorem State.setPt_pkt (v : PtRegs) : (s.setPt v).pkt = s.pkt := rfl
@[simp] theorem State.setPt_pt (v : PtRegs) : (s.setPt v).pt = v := rfl

@[simp] theorem State.setPort_cfg (v : List PortEvent) : (s.setPort v).cfg = s.cfg := rfl
@[simp] theorem State.setPort_port (v : List PortEvent) : (s.setPort v).port = v := rfl
@[simp] theorem State.setPort_buf (v : List PortEvent) : (s.setPort v).buf = s.buf := rfl
@[simp] theorem State.setPort_status (v : List PortEvent) : (s.setPort v).status = s.status := rfl
@[simp] theorem State.setPort_need (v : List PortEvent) : (s.setPort v).need = s.need := rfl
@[simp] theorem State.setPort_fatal (v : List PortEvent) : (s.setPort v).fatal = s.fatal := rfl
@[simp] theorem State.setPort_crcAcc (v : List PortEvent) : (s.setPort v).crcAcc = s.crcAcc := rfl
@[simp] theorem State.setPort_pkt (v : List PortEvent) : (s.setPort v).pkt = s.pkt := rfl
@[simp] theorem State.setPort_pt (v : List PortEvent) : (s.setPort v).pt = s.pt := rfl

@[simp] theorem State.resetWith_cfg (c : Config) : (State.resetWith c).cfg = c := rfl
@[simp] theorem State.resetWith_port (c : Config) : (State.resetWith c).port = [] := rfl
@[simp] theorem State.resetWith_buf (c : Config) : (State.resetWith c).buf = [] := rfl
@[simp] theorem State.resetWith_status (c : Config) : (State.resetWith c).status = 0x0#4 := rfl
@[simp] theorem State.resetWith_need (c : Config) : (State.resetWith c).need = 0#7 := rfl
@[simp] theorem State.resetWith_fatal (c : Config) : (State.resetWith c).fatal = false := rfl
@[simp] theorem State.resetWith_crcAcc (c : Config) : (State.resetWith c).crcAcc = 0x00#8 := rfl
@[simp] theorem State.resetWith_pkt (c : Config) : (State.resetWith c).pkt = PktRegs.zero := rfl
@[simp] theorem State.resetWith_pt (c : Config) : (State.resetWith c).pt = PtRegs.zero := rfl

theorem State.reset_eq : State.reset = State.resetWith defaultConfig := rfl

end Sys2Proof.Machine
end

