-- ==== Sys2Proof/Laws/Ops.lean ====
section
/-! SUPPORT. What each shared operation of Machine/Ops.lean can do, and the byte-order laws. -/

namespace Sys2Proof.Machine

@[simp] theorem guarded_of_fatal {s : State} (f : State → State) (h : s.fatal = true) : guarded s f = .next s := by
  simp [guarded, h]

@[simp] theorem guarded_of_live {s : State} (f : State → State) (h : s.fatal = false) :
    guarded s f = .next (f s) := by
  simp [guarded, h]

/-- All a guarded command can do: nothing while FATAL = 1, its own effect otherwise. -/
theorem guarded_cases {s t : State} {f : State → State} (h : guarded s f = .next t) :
    (s.fatal = true ∧ t = s) ∨ (s.fatal = false ∧ t = f s) := by
  cases hf : s.fatal <;> simp [hf] at h <;> simp [h]

theorem guarded_next (s : State) (f : State → State) : ∃ t, guarded s f = .next t := ⟨_, rfl⟩

@[simp] theorem report_cfg (c : StatusCode) (s : State) : (report c s).cfg = s.cfg := rfl
@[simp] theorem report_port (c : StatusCode) (s : State) : (report c s).port = s.port := rfl
@[simp] theorem report_buf (c : StatusCode) (s : State) : (report c s).buf = s.buf := rfl
@[simp] theorem report_status (c : StatusCode) (s : State) : (report c s).status = c.bits := rfl
@[simp] theorem report_need (c : StatusCode) (s : State) : (report c s).need = s.need := rfl
@[simp] theorem report_fatal (c : StatusCode) (s : State) : (report c s).fatal = s.fatal := rfl
@[simp] theorem report_crcAcc (c : StatusCode) (s : State) : (report c s).crcAcc = s.crcAcc := rfl
@[simp] theorem report_pkt (c : StatusCode) (s : State) : (report c s).pkt = s.pkt := rfl
@[simp] theorem report_pt (c : StatusCode) (s : State) : (report c s).pt = s.pt := rfl

/-- A status code is one of the thirteen named ones. -/
theorem StatusCode.bits_le (c : StatusCode) : c.bits.toNat ≤ 0xC := by cases c <;> decide

/-- Two status names never share a code (30_encoding.md R85). -/
theorem StatusCode.bits_injective : Function.Injective StatusCode.bits := by
  intro a b; cases a <;> cases b <;> decide

theorem illegalResponse_cases {s t : State} (h : illegalResponse s = .next t) :
    (s.fatal = true ∧ t = s) ∨ (s.fatal = false ∧ t = report .illegal s) := guarded_cases h

@[simp] theorem resetSignal_cfg (s : State) : (resetSignal s).cfg = s.cfg := rfl
@[simp] theorem resetSignal_port (s : State) : (resetSignal s).port = s.port := rfl

theorem resetSignal_eq (s : State) : resetSignal s = { State.resetWith s.cfg with port := s.port } := rfl

@[simp] theorem byteAt_cons_zero (b : Byte) (f : List Byte) : byteAt (b :: f) 0 = b := rfl

@[simp] theorem byteAt_cons_succ (b : Byte) (f : List Byte) (k : Nat) : byteAt (b :: f) (k + 1) = byteAt f k := rfl

theorem byteAt_of_lt {f : List Byte} {k : Nat} (h : k < f.length) : byteAt f k = f[k] := by
  simp [byteAt, h]

theorem byteAt_append_left {f t : List Byte} {k : Nat} (h : k < f.length) : byteAt (f ++ t) k = byteAt f k := by
  simp [byteAt, List.getElem?_append_left h]

theorem byteAt_take {f : List Byte} {k n : Nat} (h : k < n) : byteAt (f.take n) k = byteAt f k := by
  simp [byteAt, h]

/-- Two bytes joined, the first one the high byte. -/
theorem join_bytes (hi lo : Byte) : (lo.zeroExtend 16 ||| (hi.zeroExtend 16 <<< 8)) = hi ++ lo := by
  apply BitVec.eq_of_getLsbD_eq
  intro i h
  rw [show (hi ++ lo : BitVec 16).getLsbD i = _ from BitVec.getLsbD_append]
  by_cases h' : i < 8
  · simp [h']; intro; omega
  · have : lo.getLsbD i = false := BitVec.getLsbD_of_ge _ _ (by omega)
    simp [h', h, this]

theorem split_half (v : Half) : v.extractLsb' 8 8 ++ v.extractLsb' 0 8 = v := by
  apply BitVec.eq_of_getLsbD_eq
  intro i h
  rw [show (v.extractLsb' 8 8 ++ v.extractLsb' 0 8 : BitVec 16).getLsbD i = _ from BitVec.getLsbD_append]
  by_cases h' : i < 8
  · simp [h']
  · have : 8 + (i - 8) = i := by omega
    have h2 : i - 8 < 8 := by omega
    simp [h', this, h2]

theorem low_of_join (hi lo : Byte) : BitVec.extractLsb' 0 8 (hi ++ lo : BitVec (8 + 8)) = lo := by
  apply BitVec.eq_of_getLsbD_eq
  intro i h
  rw [BitVec.getLsbD_extractLsb', BitVec.getLsbD_append]
  simp [h]

theorem high_of_join (hi lo : Byte) : BitVec.extractLsb' 8 8 (hi ++ lo : BitVec (8 + 8)) = hi := by
  apply BitVec.eq_of_getLsbD_eq
  intro i h
  rw [BitVec.getLsbD_extractLsb', BitVec.getLsbD_append]
  simp [h]

/-- The byte at the lower offset is the low byte (20_memory.md R53). -/
theorem le16At_eq_append (f : List Byte) (o : Nat) : le16At f o = byteAt f (o + 1) ++ byteAt f o := join_bytes _ _

theorem le16Bytes_length (v : Half) : (le16Bytes v).length = 2 := rfl

/-- Reading back the two bytes of a 16-bit value gives it (20_memory.md R53). -/
theorem le16At_le16Bytes (v : Half) (t : List Byte) : le16At (le16Bytes v ++ t) 0 = v := by
  rw [le16At_eq_append]
  exact split_half v

/-- The two bytes of a 16-bit field, written again, are those read. -/
theorem le16Bytes_le16At (f : List Byte) (o : Nat) : le16Bytes (le16At f o) = [byteAt f o, byteAt f (o + 1)] := by
  rw [le16At_eq_append, le16Bytes, low_of_join, high_of_join]

end Sys2Proof.Machine
end

