-- ==== Sys2Proof/Laws/Checksum.lean ====
section
/-! SUPPORT. Laws of the CRC step, of the checksum of a sequence and of the frame check (40_checksum.md). -/

namespace Sys2Proof.Machine

variable (cfg : Config)

@[simp] theorem crcFold_nil (c : Byte) : crcFold cfg c [] = c := rfl

@[simp] theorem crcFold_cons (c b : Byte) (f : List Byte) :
    crcFold cfg c (b :: f) = crcFold cfg (crcStep cfg c b) f := rfl

theorem crcFold_append (c : Byte) (f g : List Byte) :
    crcFold cfg c (f ++ g) = crcFold cfg (crcFold cfg c f) g := by
  simp [crcFold, List.foldl_append]

theorem crc8_append_singleton (f : List Byte) (b : Byte) : crc8 cfg (f ++ [b]) = crcStep cfg (crc8 cfg f) b := by
  simp [crc8, crcFold_append]

/-- The checksum of a sequence reads nothing of the parameters but the table. -/
theorem crcStep_congr {c d : Config} (h : c.crcTable = d.crcTable) : crcStep c = crcStep d := by
  funext a b; simp [crcStep, h]

theorem crc8_congr {c d : Config} (h : c.crcTable = d.crcTable) (f : List Byte) : crc8 c f = crc8 d f := by
  simp [crc8, crcFold, crcStep_congr h]

theorem frameOk_iff (f : List Byte) :
    frameOk cfg f = true ↔ crc8 cfg (f.take (f.length - 1)) = byteAt f (f.length - 1) := by
  simp [frameOk]

/-- A frame is its covered bytes and its checksum byte (30_encoding.md R74). -/
theorem frame_split {f : List Byte} (h : f ≠ []) : f = f.take (f.length - 1) ++ [byteAt f (f.length - 1)] := by
  have hl : 0 < f.length := List.length_pos_iff.mpr h
  conv_lhs => rw [← List.take_append_drop (f.length - 1) f]
  congr 1
  rw [byteAt_of_lt (show f.length - 1 < f.length by omega),
    List.drop_eq_getElem_cons (show f.length - 1 < f.length by omega), show f.length - 1 + 1 = f.length by omega]
  simp

/-- The shift of the default table's register, undone. -/
def crcUnshift (c : Byte) : Byte := if c.getLsbD 0 then ((c ^^^ 0x4D#8) >>> 1) ||| 0x80#8 else c >>> 1

/-- Shifting in a byte loses nothing: polynomial 0x4D has a non-zero constant term (40_checksum.md R107). -/
theorem crcShift8_injective : Function.Injective crcShift8 := by
  have h : ∀ c : Byte, Nat.repeat crcUnshift 8 (crcShift8 c) = c := by decide +kernel
  intro a b hab
  rw [← h a, ← h b, hab]

theorem execCrcclr_of_live {s : State} (h : s.fatal = false) :
    execCrcclr s = .next { s with crcAcc := 0x00, status := 0xA } := by
  simp [execCrcclr, h, report, StatusCode.bits, State.setStatus, State.setCrcAcc]

theorem execCrcb_of_live {s : State} (b : Byte) (h : s.fatal = false) :
    execCrcb b s = .next { s with crcAcc := crcStep s.cfg s.crcAcc b, status := 0xA } := by
  simp [execCrcb, h, report, StatusCode.bits, State.setStatus, State.setCrcAcc, byteOperand]

end Sys2Proof.Machine
end

