-- ==== Sys2Proof/Laws/Interpolator.lean ====
section
/-! SUPPORT. Laws of the span and of POINT (43_interpolator.md). -/

namespace Sys2Proof.Machine

/-- The two readings of `mod` agree on a non-negative left side (43_interpolator.md R171). -/
theorem spanReduce_nonneg (m : SpanMod) {x : Int} (h : 0 ≤ x) : spanReduce m x = x % 36000 := by
  cases m
  · rfl
  · have h1 : Int.tdiv x 36000 = x / 36000 := Int.tdiv_eq_ediv_of_nonneg h
    simp only [spanReduce, fullTurn, h1]
    omega

/-- TRUNC keeps a left side that is negative and above −360.00°, as every one is (43_interpolator.md R171). -/
theorem spanReduce_trunc_neg {x : Int} (h : x < 0) (hx : -36000 < x) : spanReduce .trunc x = x := by
  have h1 : Int.tdiv x 36000 = 0 := by
    have : Int.tdiv (-x) 36000 = 0 := Int.tdiv_eq_zero_of_lt (by omega) (by omega)
    rw [Int.neg_tdiv] at this
    omega
  simp [spanReduce, fullTurn, h1]

/-- EUCLID's span is in [0, 360.00°) (43_interpolator.md R170). -/
theorem spanReduce_euclid_bounds (x : Int) : 0 ≤ spanReduce .euclid x ∧ spanReduce .euclid x < 36000 :=
  ⟨Int.emod_nonneg _ (by decide), Int.emod_lt_of_pos _ (by decide)⟩

/-- Every span, with the left side it is the remainder of (43_interpolator.md R170, R171). -/
theorem span_cases (cfg : Config) (r : PktRegs) :
    ∃ x : Int, x = (r.endAngle.toNat : Int) + 36000 - r.startAngle.toNat ∧ -29535 ≤ x ∧ x ≤ 101535 ∧
      ((0 ≤ x ∧ span cfg r = x % 36000) ∨ (x < 0 ∧ cfg.spanMod = .euclid ∧ span cfg r = x + 36000) ∨
        (x < 0 ∧ cfg.spanMod = .trunc ∧ span cfg r = x)) := by
  have h1 := r.endAngle.isLt
  have h2 := r.startAngle.isLt
  refine ⟨_, rfl, by omega, by omega, ?_⟩
  show _ ∨ _
  unfold span fullTurn
  generalize hx : (r.endAngle.toNat : Int) + 36000 - r.startAngle.toNat = x
  by_cases h : 0 ≤ x
  · exact .inl ⟨h, spanReduce_nonneg _ h⟩
  · right
    cases cfg.spanMod with
    | euclid =>
      refine .inl ⟨by omega, rfl, ?_⟩
      show x % 36000 = x + 36000
      omega
    | trunc => exact .inr ⟨by omega, rfl, spanReduce_trunc_neg (by omega) (by omega)⟩

/-- A span fits PT_SPAN (43_interpolator.md R176). -/
theorem ofInt_span_toInt {x : Int} (h1 : -29535 ≤ x) (h2 : x ≤ 35999) : (BitVec.ofInt 17 x).toInt = x := by
  rw [BitVec.toInt_ofInt, Int.bmod_def]; norm_num; omega

/-- A numerator fits PT_NUM (43_interpolator.md R176). -/
theorem ofInt_num_toNat {x : Int} (h1 : 0 ≤ x) (h2 : x ≤ 3111555) : ((BitVec.ofInt 22 x).toNat : Int) = x := by
  rw [BitVec.toNat_ofInt]; norm_num; omega

/-- All POINT can do while FATAL = 0 (43_interpolator.md R173). -/
theorem pointEffect_cases (i : Nat) (s : State) :
    (s.pkt.valid = false ∧ pointEffect i s = { s with status := 0x9 }) ∨
    (s.pkt.valid = true ∧ s.pkt.n.toNat ≤ i ∧ pointEffect i s = { s with status := 0x8 }) ∨
    (s.pkt.valid = true ∧ i < s.pkt.n.toNat ∧
      pointEffect i s = { s with pt := pointRegs s.cfg s.pkt i, status := 0x7 }) := by
  unfold pointEffect
  split_ifs with h1 h2
  · exact .inl ⟨h1, rfl⟩
  · exact .inr (.inl ⟨by simpa using h1, h2, rfl⟩)
  · exact .inr (.inr ⟨by simpa using h1, by omega, rfl⟩)

theorem execPoint_of_live {s : State} (b : Byte) (h : s.fatal = false) :
    execPoint b s = .next (pointEffect b.toNat s) := by
  simp [execPoint, h, indexOperand]

end Sys2Proof.Machine
end

