-- ==== Sys2Proof/Laws/PacketDecoder.lean ====
section
/-! SUPPORT. Laws of the header parse, the packet registers and the wire encoding (42_decoder.md). -/

namespace Sys2Proof.Machine

/-- "11 ≤ L ≤ 104" (30_encoding.md R73). -/
theorem frameLen_bounds (n : BitVec 5) : 11 ≤ frameLen n ∧ frameLen n ≤ 104 := by
  have := n.isLt
  unfold frameLen; omega

theorem frameLen_eq (n : BitVec 5) : frameLen n = 11 + 3 * n.toNat := by unfold frameLen; omega

theorem hdrLen_bounds (b : Byte) : 11 ≤ hdrLen b ∧ hdrLen b ≤ 104 := frameLen_bounds _

/-- The count is the byte AND 0x1F (41_synchronizer.md R133). -/
theorem hdrCount_toNat (b : Byte) : (hdrCount b).toNat = (b &&& 0x1F#8).toNat := by
  have h : b.toNat % 32 = b.toNat &&& 31 := (Nat.and_two_pow_sub_one_eq_mod b.toNat 5).symm
  simp [hdrCount, h]

theorem hdrLen_eq (b : Byte) : hdrLen b = 11 + 3 * (b &&& 0x1F#8).toNat := by
  rw [hdrLen, frameLen_eq, hdrCount_toNat]

/-- Version and count are all of header byte 1 (30_encoding.md R71). -/
theorem headerByte_parse (b : Byte) : headerByte (hdrVer b) (hdrCount b) = b := by
  revert b; decide

theorem hdrVer_headerByte (v : BitVec 3) (n : BitVec 5) : hdrVer (headerByte v n) = v := by
  revert v n; decide

theorem hdrCount_headerByte (v : BitVec 3) (n : BitVec 5) : hdrCount (headerByte v n) = n := by
  revert v n; decide

theorem decodeFrame_wf (f : List Byte) : (decodeFrame f).wf := by
  simp [Packet.wf, decodeFrame]

@[simp] theorem pktRegsOf_valid (p : Packet) : (pktRegsOf p).valid = true := rfl
@[simp] theorem pktRegsOf_ver (p : Packet) : (pktRegsOf p).ver = p.ver := rfl
@[simp] theorem pktRegsOf_n (p : Packet) : (pktRegsOf p).n = p.n := rfl
@[simp] theorem pktRegsOf_speed (p : Packet) : (pktRegsOf p).speed = p.speed := rfl
@[simp] theorem pktRegsOf_startAngle (p : Packet) : (pktRegsOf p).startAngle = p.startAngle := rfl
@[simp] theorem pktRegsOf_endAngle (p : Packet) : (pktRegsOf p).endAngle = p.endAngle := rfl
@[simp] theorem pktRegsOf_ts (p : Packet) : (pktRegsOf p).ts = p.ts := rfl
@[simp] theorem pktRegsOf_crc (p : Packet) : (pktRegsOf p).crc = p.crc := rfl

@[simp] theorem pktRegsOf_dist (p : Packet) (k : Nat) (h : k < 31) : (pktRegsOf p).dist[k] = (slotOf p k).dist := by
  simp [pktRegsOf]

@[simp] theorem pktRegsOf_conf (p : Packet) (k : Nat) (h : k < 31) : (pktRegsOf p).conf[k] = (slotOf p k).conf := by
  simp [pktRegsOf]

theorem slotOf_unused {p : Packet} {k : Nat} (h : p.n.toNat ≤ k) : slotOf p k = ⟨0, 0⟩ := by
  simp [slotOf, Nat.not_lt.mpr h]

theorem slotOf_used {p : Packet} {k : Nat} (h : k < p.n.toNat) : slotOf p k = p.samples.getD k ⟨0, 0⟩ := by
  simp [slotOf, h]

theorem pktSlot_eq (r : PktRegs) {k : Nat} (h : k < 31) : pktSlot r k = ⟨r.dist[k], r.conf[k]⟩ := by
  simp [pktSlot, h]

/-- Writing a packet to the registers and reading it back gives it (42_decoder.md R151, R154). -/
theorem packetOfRegs_pktRegsOf {p : Packet} (h : p.wf) : packetOfRegs (pktRegsOf p) = p := by
  have hs : (List.range p.n.toNat).map (pktSlot (pktRegsOf p)) = p.samples := by
    apply List.ext_getElem (by simp [h])
    intro k h1 h2
    have hk : k < p.n.toNat := by simpa using h1
    have hk31 : k < 31 := by have := p.n.isLt; omega
    simp [pktSlot_eq _ hk31, slotOf_used hk, h2]
  cases p
  simp_all [packetOfRegs]

@[simp] theorem writePacket_cfg (p : Packet) (s : State) : (writePacket p s).cfg = s.cfg := rfl
@[simp] theorem writePacket_port (p : Packet) (s : State) : (writePacket p s).port = s.port := rfl
@[simp] theorem writePacket_buf (p : Packet) (s : State) : (writePacket p s).buf = s.buf := rfl
@[simp] theorem writePacket_status (p : Packet) (s : State) : (writePacket p s).status = s.status := rfl
@[simp] theorem writePacket_need (p : Packet) (s : State) : (writePacket p s).need = s.need := rfl
@[simp] theorem writePacket_fatal (p : Packet) (s : State) : (writePacket p s).fatal = s.fatal := rfl
@[simp] theorem writePacket_crcAcc (p : Packet) (s : State) : (writePacket p s).crcAcc = s.crcAcc := rfl
@[simp] theorem writePacket_pkt (p : Packet) (s : State) : (writePacket p s).pkt = pktRegsOf p := rfl
@[simp] theorem writePacket_pt (p : Packet) (s : State) : (writePacket p s).pt = s.pt.invalidated := rfl

theorem flatMap_sampleBytes_length (l : List Sample) : (l.flatMap sampleBytes).length = 3 * l.length := by
  induction l with
  | nil => rfl
  | cons x l ih => simp [sampleBytes, le16Bytes, ih]; omega

/-- A packet's wire form has the described length (30_encoding.md R70, R72). -/
theorem encodePacket_length {h : Byte} {p : Packet} (hp : p.wf) : (encodePacket h p).length = frameLen p.n := by
  simp only [encodePacket, packetBody, List.length_append, flatMap_sampleBytes_length, le16Bytes_length, hp,
    frameLen, List.length_cons, List.length_nil]
  omega

end Sys2Proof.Machine
end

