-- ==== Sys2Proof/Laws/PerInstr.lean ====
section
/-! SUPPORT. The family RowMatch: a command's word matches exactly its own row of the operation map (30_encoding.md R81). -/

namespace Sys2Proof.Laws.RowMatch

/-- The word of `i` has the row's fixed bits for the row of `i`'s mnemonic, and for no other row. -/
def Statement (i : Instr) : Prop :=
  ∀ r ∈ opTable, (encode i &&& r.maskBits = r.matchBits ↔ r.mnemonic = mnemonicOf i)

theorem push (b : Byte) : Statement (.push b) := by
  unfold Statement
  revert b; decide

theorem attempt : Statement .attempt := by unfold Statement; decide

theorem drain : Statement .drain := by unfold Statement; decide

theorem point (i : Byte) : Statement (.point i) := by
  unfold Statement
  revert i; decide

theorem crcclr : Statement .crcclr := by unfold Statement; decide

theorem crcb (b : Byte) : Statement (.crcb b) := by
  unfold Statement
  revert b; decide

theorem fail : Statement .fail := by unfold Statement; decide

end Sys2Proof.Laws.RowMatch
end

