-- ==== Sys2Proof/Laws/Synchronizer.lean ====
section
/-! SUPPORT. What one decode attempt, DRAIN's loop and the write of their result can do (41_synchronizer.md). -/

namespace Sys2Proof.Machine

/-- Every way one decode attempt can end, with the conditions of its case (41_synchronizer.md R122). -/
inductive AttemptCase (cfg : Config) (B : List Byte) : AttemptResult → Prop where
  | header (h : B.length < 2) : AttemptCase cfg B ⟨.needMore, 2 - B.length, B, none⟩
  | noise (h : 2 ≤ B.length) (hi : byteAt B 0 ≠ cfg.headerIndicator) :
      AttemptCase cfg B ⟨.resync, 0, B.drop 1, none⟩
  | body (h : 2 ≤ B.length) (hi : byteAt B 0 = cfg.headerIndicator) (hl : B.length < hdrLen (byteAt B 1)) :
      AttemptCase cfg B ⟨.needMore, hdrLen (byteAt B 1) - B.length, B, none⟩
  | rejected (h : 2 ≤ B.length) (hi : byteAt B 0 = cfg.headerIndicator) (hl : hdrLen (byteAt B 1) ≤ B.length)
      (hf : frameOk cfg (B.take (hdrLen (byteAt B 1))) = false) :
      AttemptCase cfg B ⟨.rejected, 0, B.drop (hdrLen (byteAt B 1)), none⟩
  | packet (h : 2 ≤ B.length) (hi : byteAt B 0 = cfg.headerIndicator) (hl : hdrLen (byteAt B 1) ≤ B.length)
      (hf : frameOk cfg (B.take (hdrLen (byteAt B 1))) = true) :
      AttemptCase cfg B ⟨.packet, 0, B.drop (hdrLen (byteAt B 1)), some (decodeFrame (B.take (hdrLen (byteAt B 1))))⟩

/-- The inversion of `attemptCore`. -/
theorem attemptCore_cases (cfg : Config) (B : List Byte) : AttemptCase cfg B (attemptCore cfg B) := by
  unfold attemptCore
  dsimp only
  split_ifs with h1 h2 h3 h4
  · exact .header h1
  · exact .noise (by omega) h2
  · exact .body (by omega) (not_not.mp h2) h3
  · exact .packet (by omega) (not_not.mp h2) (by omega) h4
  · exact .rejected (by omega) (not_not.mp h2) (by omega) (by simpa using h4)

/-- A property of every result an attempt can end with is a property of its result. -/
theorem attemptCore_all {cfg : Config} {B : List Byte} {P : AttemptResult → Prop}
    (h : ∀ r, AttemptCase cfg B r → P r) : P (attemptCore cfg B) := h _ (attemptCore_cases cfg B)

/-- An attempt's result is settled by its case: two results of one case agree. -/
theorem attemptCore_eq_of_case {cfg : Config} {B : List Byte} {r : AttemptResult} (h : AttemptCase cfg B r) :
    attemptCore cfg B = r := by
  unfold attemptCore
  cases h with
  | header h => simp [h]
  | noise h hi => simp [Nat.not_lt.mpr h, hi]
  | body h hi hl => simp [Nat.not_lt.mpr h, hi, hl]
  | rejected h hi hl hf => simp [Nat.not_lt.mpr h, hi, Nat.not_lt.mpr hl, hf]
  | packet h hi hl hf => simp [Nat.not_lt.mpr h, hi, Nat.not_lt.mpr hl, hf]

theorem attemptCore_rest_length_le (cfg : Config) (B : List Byte) :
    (attemptCore cfg B).rest.length ≤ B.length := by
  refine attemptCore_all (P := fun r => r.rest.length ≤ B.length) fun r h => ?_
  cases h <;> simp

/-- Every outcome but NEED_MORE removes a byte (41_synchronizer.md R130, termination). -/
theorem attemptCore_rest_lt {cfg : Config} {B : List Byte} (h : (attemptCore cfg B).outcome ≠ .needMore) :
    (attemptCore cfg B).rest.length < B.length := by
  generalize hr : attemptCore cfg B = r at h ⊢
  have hc := attemptCore_cases cfg B
  rw [hr] at hc
  have hb := hdrLen_bounds (byteAt B 1)
  cases hc <;> simp at h ⊢ <;> omega

theorem attemptCore_amount_le (cfg : Config) (B : List Byte) : (attemptCore cfg B).amount ≤ 102 := by
  have hb := hdrLen_bounds (byteAt B 1)
  refine attemptCore_all (P := fun r => r.amount ≤ 102) fun r h => ?_
  cases h <;> simp <;> omega

/-- An attempt only removes bytes at the front (20_memory.md R58). -/
theorem attemptCore_rest_eq_drop (cfg : Config) (B : List Byte) :
    ∃ m, m ≤ B.length ∧ (attemptCore cfg B).rest = B.drop m := by
  refine attemptCore_all (P := fun r => ∃ m, m ≤ B.length ∧ r.rest = B.drop m) fun r h => ?_
  cases h with
  | header h => exact ⟨0, by omega, rfl⟩
  | noise h hi => exact ⟨1, by omega, rfl⟩
  | body h hi hl => exact ⟨0, by omega, rfl⟩
  | rejected h hi hl hf => exact ⟨_, hl, rfl⟩
  | packet h hi hl hf => exact ⟨_, hl, rfl⟩

/-- One turn of DRAIN's loop. -/
theorem drainCore_succ (cfg : Config) (k : Nat) (B : List Byte) :
    drainCore cfg (k + 1) B =
      if goesOn (attemptCore cfg B).outcome then drainCore cfg k (attemptCore cfg B).rest else attemptCore cfg B := rfl

theorem goesOn_ne_needMore {o : AttemptOutcome} (h : goesOn o = true) : o ≠ .needMore := by
  cases o <;> simp_all [goesOn]

/-- With at least len(B) as fuel the loop ends settled: "the loop runs at most len(BUF) + 1 times"
(41_synchronizer.md R130). -/
theorem drainCore_settled (cfg : Config) (k : Nat) (B : List Byte) (h : B.length ≤ k) :
    goesOn (drainCore cfg k B).outcome = false := by
  induction k generalizing B with
  | zero =>
    have : B = [] := List.length_eq_zero_iff.mp (by omega)
    subst this; rfl
  | succ k ih =>
    rw [drainCore_succ]
    split_ifs with hg
    · have := attemptCore_rest_lt (goesOn_ne_needMore hg)
      exact ih _ (by omega)
    · simpa using hg

/-- More fuel than len(B) changes nothing, so the fuel is no part of what DRAIN means (log 7). -/
theorem drainCore_fuel (cfg : Config) (k : Nat) (B : List Byte) (h : B.length ≤ k) :
    drainCore cfg (k + 1) B = drainCore cfg k B := by
  induction k generalizing B with
  | zero =>
    have : B = [] := List.length_eq_zero_iff.mp (by omega)
    subst this; rfl
  | succ k ih =>
    rw [drainCore_succ cfg (k + 1) B, drainCore_succ cfg k B]
    split_ifs with hg
    · have := attemptCore_rest_lt (goesOn_ne_needMore hg)
      exact ih _ (by omega)
    · rfl

theorem drainCore_fuel_le (cfg : Config) {k m : Nat} {B : List Byte} (h : B.length ≤ k) (hm : k ≤ m) :
    drainCore cfg m B = drainCore cfg k B := by
  induction m, hm using Nat.le_induction with
  | base => rfl
  | succ m hkm ih => rw [drainCore_fuel cfg m B (by omega), ih]

/-- What DRAIN's loop returns is one attempt's result, on what is left of B. -/
theorem drainCore_is_attempt (cfg : Config) (k : Nat) (B : List Byte) :
    ∃ j, j ≤ B.length ∧ drainCore cfg k B = attemptCore cfg (B.drop j) := by
  induction k generalizing B with
  | zero => exact ⟨0, by omega, by simp [drainCore]⟩
  | succ k ih =>
    rw [drainCore_succ]
    split_ifs with hg
    · have hrest := attemptCore_rest_eq_drop cfg B
      obtain ⟨m, hm, hr⟩ := hrest
      obtain ⟨j, hj, hd⟩ := ih (attemptCore cfg B).rest
      rw [hr, List.length_drop] at hj
      refine ⟨m + j, by omega, ?_⟩
      rw [hd, hr, List.drop_drop]
    · exact ⟨0, by omega, by simp⟩

@[simp] theorem applyAttempt_cfg (r : AttemptResult) (s : State) : (applyAttempt r s).cfg = s.cfg := by
  cases hr : r.packet <;> simp [applyAttempt, hr]

@[simp] theorem applyAttempt_port (r : AttemptResult) (s : State) : (applyAttempt r s).port = s.port := by
  cases hr : r.packet <;> simp [applyAttempt, hr]

@[simp] theorem applyAttempt_buf (r : AttemptResult) (s : State) : (applyAttempt r s).buf = r.rest := by
  cases hr : r.packet <;> simp [applyAttempt, hr]

@[simp] theorem applyAttempt_status (r : AttemptResult) (s : State) :
    (applyAttempt r s).status = (outcomeCode r.outcome).bits := by
  cases hr : r.packet <;> simp [applyAttempt, hr]

@[simp] theorem applyAttempt_need (r : AttemptResult) (s : State) :
    (applyAttempt r s).need = BitVec.ofNat 7 r.amount := by
  cases hr : r.packet <;> simp [applyAttempt, hr]

@[simp] theorem applyAttempt_fatal (r : AttemptResult) (s : State) : (applyAttempt r s).fatal = s.fatal := by
  cases hr : r.packet <;> simp [applyAttempt, hr]

@[simp] theorem applyAttempt_crcAcc (r : AttemptResult) (s : State) : (applyAttempt r s).crcAcc = s.crcAcc := by
  cases hr : r.packet <;> simp [applyAttempt, hr]

theorem applyAttempt_pkt (r : AttemptResult) (s : State) :
    (applyAttempt r s).pkt = match r.packet with | some p => pktRegsOf p | none => s.pkt := by
  cases hr : r.packet <;> simp [applyAttempt, hr]

theorem applyAttempt_pt (r : AttemptResult) (s : State) :
    (applyAttempt r s).pt = match r.packet with | some _ => s.pt.invalidated | none => s.pt := by
  cases hr : r.packet <;> simp [applyAttempt, hr]

/-- A result without a packet writes BUF, STATUS and NEED only. -/
theorem applyAttempt_none {r : AttemptResult} (s : State) (h : r.packet = none) :
    applyAttempt r s =
      { s with buf := r.rest, status := (outcomeCode r.outcome).bits, need := BitVec.ofNat 7 r.amount } := by
  simp [applyAttempt, h, report, State.setBuf, State.setStatus, State.setNeed]

/-- A result with a packet also writes PKT_* and clears PT_VALID (42_decoder.md R151). -/
theorem applyAttempt_some {r : AttemptResult} {p : Packet} (s : State) (h : r.packet = some p) :
    applyAttempt r s =
      { s with buf := r.rest, status := (outcomeCode r.outcome).bits, need := BitVec.ofNat 7 r.amount
               pkt := pktRegsOf p, pt := { s.pt with valid := false } } := by
  simp [applyAttempt, h, report, writePacket, PtRegs.invalidated, State.setBuf, State.setStatus, State.setNeed,
    State.setPkt, State.setPt]

/-- What a result writes depends on neither BUF, STATUS nor NEED of the state it is applied to. -/
theorem applyAttempt_overwrites (r : AttemptResult) (s : State) (B : List Byte) (c : BitVec 4) (n : BitVec 7) :
    applyAttempt r { s with buf := B, status := c, need := n } = applyAttempt r s := by
  cases hr : r.packet with
  | none => rw [applyAttempt_none _ hr, applyAttempt_none _ hr]
  | some p => rw [applyAttempt_some _ hr, applyAttempt_some _ hr]

/-- NEED_MORE leaves the buffer and carries no packet (41_synchronizer.md R132). -/
theorem attemptCore_needMore {cfg : Config} {B : List Byte} (h : (attemptCore cfg B).outcome = .needMore) :
    (attemptCore cfg B).rest = B ∧ (attemptCore cfg B).packet = none := by
  revert h
  refine attemptCore_all (P := fun r => r.outcome = .needMore → r.rest = B ∧ r.packet = none) fun r hc => ?_
  cases hc <;> simp

/-- A packet comes with the PACKET outcome and with no other (41_synchronizer.md R128). -/
theorem attemptCore_packet_iff {cfg : Config} {B : List Byte} :
    (attemptCore cfg B).packet = none ↔ (attemptCore cfg B).outcome ≠ .packet := by
  refine attemptCore_all (P := fun r => r.packet = none ↔ r.outcome ≠ .packet) fun r hc => ?_
  cases hc <;> simp

theorem attemptCore_packet_wf {cfg : Config} {B : List Byte} {p : Packet} (h : (attemptCore cfg B).packet = some p) :
    p.wf := by
  revert h
  refine attemptCore_all (P := fun r => r.packet = some p → p.wf) fun r hc => ?_
  cases hc <;> simp
  rintro rfl
  exact decodeFrame_wf _

theorem drainCore_of_goesOn {cfg : Config} {B : List Byte} (h : goesOn (attemptCore cfg B).outcome = true) :
    drainCore cfg B.length B = drainCore cfg (attemptCore cfg B).rest.length (attemptCore cfg B).rest := by
  have h1 := attemptCore_rest_lt (goesOn_ne_needMore h)
  obtain ⟨k, hk⟩ : ∃ k, B.length = k + 1 := ⟨B.length - 1, by omega⟩
  rw [hk, drainCore_succ, if_pos h]
  exact drainCore_fuel_le cfg le_rfl (by omega)

theorem drainCore_of_settled {cfg : Config} {B : List Byte} {k : Nat}
    (h : goesOn (attemptCore cfg B).outcome = false) : drainCore cfg k B = attemptCore cfg B := by
  cases k with
  | zero => rfl
  | succ k => rw [drainCore_succ, h]; simp

/-- The writes of an attempt that DRAIN passes through are overwritten by the next one's. -/
theorem applyAttempt_of_goesOn {cfg : Config} {B : List Byte} (h : goesOn (attemptCore cfg B).outcome = true)
    (s : State) (r : AttemptResult) :
    applyAttempt r (applyAttempt (attemptCore cfg B) s) = applyAttempt r s := by
  have hn : (attemptCore cfg B).packet = none := by
    rw [attemptCore_packet_iff]; intro h'; rw [h'] at h; cases h
  rw [applyAttempt_none _ hn]
  exact applyAttempt_overwrites _ _ _ _ _

/-- PUSH keeps BUF within its bound (10_state.md R23). -/
theorem pushByte_keeps_bound {b : Byte} {s : State} (h : s.buf.length ≤ s.cfg.bufCapacity) :
    (pushByte b s).buf.length ≤ (pushByte b s).cfg.bufCapacity := by
  unfold pushByte
  split_ifs with hl
  · simpa using h
  · simp [bufAppend]; omega

/-- Removing bytes keeps BUF within its bound. -/
theorem applyAttempt_keeps_bound {r : AttemptResult} {s : State} (hr : r.rest.length ≤ s.buf.length)
    (h : s.buf.length ≤ s.cfg.bufCapacity) :
    (applyAttempt r s).buf.length ≤ (applyAttempt r s).cfg.bufCapacity := by
  simp; omega

theorem execPush_of_full {s : State} (b : Byte) (h : s.fatal = false) (hl : s.buf.length = s.cfg.bufCapacity) :
    execPush b s = .next { s with status := 0x6 } := by
  simp [execPush, h, pushByte, hl, report, StatusCode.bits, State.setStatus]

theorem execPush_of_room {s : State} (b : Byte) (h : s.fatal = false) (hl : s.buf.length ≠ s.cfg.bufCapacity) :
    execPush b s = .next { s with buf := s.buf ++ [b], status := 0x5 } := by
  simp [execPush, h, pushByte, hl, report, bufAppend, byteOperand, StatusCode.bits, State.setStatus, State.setBuf]

theorem execAttempt_of_live {s : State} (h : s.fatal = false) :
    execAttempt s = .next (applyAttempt (attemptCore s.cfg s.buf) s) := by
  simp [execAttempt, h]

theorem execDrain_of_live {s : State} (h : s.fatal = false) :
    execDrain s = .next (applyAttempt (drainCore s.cfg s.buf.length s.buf) s) := by
  simp [execDrain, h]

end Sys2Proof.Machine
end

