-- ==== Sys2Proof/Laws/Step.lean ====
section
/-! SUPPORT. What one step can do (Machine/Step.lean), and what a command can do. -/

namespace Sys2Proof.Machine

/-- Everything a step that answers a next state can have done. -/
theorem step_cases {s t : State} (h : step s = .next t) :
    (∃ rest, s.port = .reset :: rest ∧ t = resetSignal (s.setPort rest)) ∨
    (∃ w rest i, s.port = .word w :: rest ∧ decode w = .ok i ∧ exec i (s.setPort rest) = .next t) ∨
    (∃ w rest r, s.port = .word w :: rest ∧ decode w = .error r ∧ illegalResponse (s.setPort rest) = .next t) := by
  unfold step at h
  split at h
  · cases h
  · rename_i e rest hp
    cases e with
    | reset => exact .inl ⟨rest, hp, by simpa [execEvent] using h.symm⟩
    | word w =>
      simp only [execEvent, execWord] at h
      split at h
      · exact .inr (.inl ⟨w, rest, _, hp, ‹_›, h⟩)
      · exact .inr (.inr ⟨w, rest, _, hp, ‹_›, h⟩)

/-- While FATAL = 1 a command changes nothing (60_exceptions.md R202). -/
theorem exec_of_fatal (i : Instr) {s : State} (h : s.fatal = true) : exec i s = .next s := by
  cases i <;> simp [exec, execPush, execAttempt, execDrain, execPoint, execCrcclr, execCrcb, execFail, h]

/-- The effect of a command while FATAL = 0, one line per command. -/
def liveEffect : Instr → State → State
  | .push b, s => pushByte b s
  | .attempt, s => applyAttempt (attemptCore s.cfg s.buf) s
  | .drain, s => applyAttempt (drainCore s.cfg s.buf.length s.buf) s
  | .point i, s => pointEffect i.toNat s
  | .crcclr, s => { s with crcAcc := 0x00, status := 0xA }
  | .crcb b, s => { s with crcAcc := crcStep s.cfg s.crcAcc b, status := 0xA }
  | .fail, s => { s with fatal := true, status := 0xC }

theorem exec_of_live (i : Instr) {s : State} (h : s.fatal = false) : exec i s = .next (liveEffect i s) := by
  cases i <;>
    simp [exec, execPush, execAttempt, execDrain, execPoint, execCrcclr, execCrcb, execFail, h, liveEffect, report,
      byteOperand, indexOperand, State.setStatus, State.setCrcAcc, State.setFatal, StatusCode.bits]

/-- Everything a command can do. -/
theorem exec_cases {i : Instr} {s t : State} (h : exec i s = .next t) :
    (s.fatal = true ∧ t = s) ∨ (s.fatal = false ∧ t = liveEffect i s) := by
  cases hf : s.fatal with
  | true => rw [exec_of_fatal i hf] at h; cases h; exact .inl ⟨rfl, rfl⟩
  | false => rw [exec_of_live i hf] at h; cases h; exact .inr ⟨rfl, rfl⟩

theorem step_withFetchWord (s : State) (nbits w : Nat) :
    step (s.withFetchWord nbits w) = execWord (tableWord nbits w) s := rfl

end Sys2Proof.Machine
end

