-- ==== Sys2Proof/Laws/Safety.lean ====
section
/-! SUPPORT. What the invariant of Safety.lean does not look at, and what keeps it. -/

namespace Sys2Proof.Machine

/-- The caller's events are no part of the invariant. -/
theorem State.Inv.setPort {s : State} (h : s.Inv) (p : List PortEvent) : (s.setPort p).Inv :=
  ⟨h.1, h.2, h.3, h.4, h.5, h.6, h.7, h.8, h.9⟩

/-- A command that writes BUF within its bound, a status other than FATAL, NEED within its bound and CRC_ACC, and no
other register, keeps the invariant. -/
theorem State.Inv.write_common {s : State} (h : s.Inv) (hf : s.fatal = false) (b : List Byte)
    (hb : b.length ≤ s.cfg.bufCapacity) (c : StatusCode) (hc : c ≠ .fatal) (n : BitVec 7) (hn : n.toNat ≤ 102)
    (a : Byte) : ({ s with buf := b, status := c.bits, need := n, crcAcc := a } : State).Inv where
  bufBounded := ⟨h.bufBounded.1, hb⟩
  statusNamed := c.bits_le
  needBounded := hn
  fatalReported := by
    constructor
    · intro h'; rw [show s.fatal = true from h'] at hf; cases hf
    · intro h'; exact absurd (StatusCode.bits_injective h') hc
  zeroBeforePacket := h.zeroBeforePacket
  unusedSlotsZero := h.unusedSlotsZero
  packetChecked := h.packetChecked
  pointDescribesPacket := h.pointDescribesPacket
  pointBounded := h.pointBounded

end Sys2Proof.Machine
end

