-- ==== Sys2Proof/Tests/Slice0.lean ====
section
/-! SUPPORT. Own tests. Expected results come from spec/95_test_vectors.md and from the encodings of spec/30_encoding.md; each
test names its vector. The theorems named witness_ show that the premises of a statement can be met together. -/

namespace Sys2Proof.Tests

open Sys2Proof Sys2Proof.Machine

/-! ### The checks of WellFormed refuse ill-formed terms -/

theorem test_wf_refuses_push_operand : (AsmLine.push 256).wf = false := by decide
theorem test_wf_refuses_point_operand : (AsmLine.point 256).wf = false := by decide
theorem test_wf_refuses_crcb_operand : (AsmLine.crcb 300).wf = false := by decide
theorem test_wf_refuses_word : (AsmLine.word 65536).wf = false := by decide
theorem test_wf_refuses_feed_byte : (AsmLine.feed [1, 256]).wf = false := by decide
theorem test_wf_refuses_feed_empty : (AsmLine.feed []).wf = false := by decide
theorem test_wf_refuses_crcseq_byte : (AsmLine.crcseq [256]).wf = false := by decide
theorem test_wf_refuses_crcseq_empty : (AsmLine.crcseq []).wf = false := by decide
theorem test_wf_refuses_points : (AsmLine.points 257).wf = false := by decide
theorem test_wf_accepts_boundaries :
    (AsmLine.push 255).wf = true ∧ (AsmLine.word 65535).wf = true ∧ (AsmLine.points 256).wf = true ∧
    (AsmLine.points 0).wf = true := by decide
theorem test_wf_refuses_capacity : ¬ Config.wf { defaultConfig with bufCapacity := 103 } := by decide
theorem test_wf_accepts_capacity : Config.wf { defaultConfig with bufCapacity := 104 } := by decide

/-! ### Decoding: words written out bit by bit from 30_encoding.md R81 (V-CMD) -/

theorem test_decode_push : decode 0b0001000001010100#16 = .ok (.push 0x54) := by decide
theorem test_decode_attempt : decode 0b0010000000000000#16 = .ok .attempt := by decide
theorem test_decode_drain : decode 0b0011000000000000#16 = .ok .drain := by decide
theorem test_decode_point : decode 0b0100000011111111#16 = .ok (.point 255) := by decide
theorem test_decode_crcclr : decode 0b0101000000000000#16 = .ok .crcclr := by decide
theorem test_decode_crcb : decode 0b0110000000101100#16 = .ok (.crcb 0x2C) := by decide
theorem test_decode_fail : decode 0b0111000000000000#16 = .ok .fail := by decide
theorem test_decode_illegal :
    decode 0x2001 = .error .badImm ∧ decode 0x2100 = .error .badZ ∧ decode 0x4100 = .error .badZ ∧
    decode 0x7001 = .error .badImm ∧ decode 0x0000 = .error .badOp ∧ decode 0xFFFF = .error .badOp := by decide
theorem test_encode_words :
    encode (.push 0xFF) = 0x10FF ∧ encode .attempt = 0x2000 ∧ encode .drain = 0x3000 ∧
    encode (.point 12) = 0x400C ∧ encode .crcclr = 0x5000 ∧ encode (.crcb 0x54) = 0x6054 ∧ encode .fail = 0x7000 := by
  decide
theorem test_decodeTableWord :
    decodeTableWord 16 0x2000 = some .attempt ∧ decodeTableWord 16 0x2001 = none ∧
    decodeTableWord 16 0x6054 = some (.crcb 0x54) := by decide

/-! ### Frames and states -/

/-- Frame F2 of 95_test_vectors.md, 23 bytes. -/
def frameF2 : List Byte :=
  [0x54, 0x24, 0x10, 0x0E, 0xB8, 0x88, 0xF4, 0x01, 0x0A, 0x58, 0x02, 0x14, 0xBC, 0x02, 0x1E, 0x20, 0x03, 0x28,
   0xE8, 0x03, 0xFF, 0xFF, 0x63]

/-- Frame F0 of 95_test_vectors.md, 11 bytes, no samples. -/
def frameF0 : List Byte := [0x54, 0x20, 0x00, 0x00, 0x00, 0x00, 0x00, 0x00, 0x00, 0x00, 0xCF]

/-- The state after reset with the bytes B buffered. -/
def buffered (B : List Byte) : State := { State.reset with buf := B }

/-- The state after reset with the packet of F2 in PKT. -/
def holdingF2 : State := { State.reset with pkt := pktRegsOf (decodeFrame frameF2), status := 0x4 }

/-- The state after reset and a FAIL. -/
def failed : State := { State.reset with fatal := true, status := 0xC }

/-- A property of the next state; false of a stop. -/
def after (o : Host.Outcome State Fault Refusal) (P : State → Bool) : Bool :=
  match o with
  | .next t => P t
  | .fault _ => false
  | .refused _ => false

/-- Whether an outcome is a refusal for want of a command. -/
def stopsForWantOfCommand (o : Host.Outcome State Fault Refusal) : Bool :=
  match o with
  | .next _ => false
  | .fault _ => false
  | .refused r => r = .noCommand

/-- The buffer of the capacity of program P5, full. -/
def fullBuffer : State := { State.reset with cfg := { defaultConfig with bufCapacity := 104 }, buf := List.replicate 104 0 }

/-! ### One step each -/

/-- 41_synchronizer.md R120, its example. -/
theorem test_push_appends :
    after (step ((buffered [0x54]).withFetchWord 16 0x102C)) (fun t => t.buf = [0x54, 0x2C] ∧ t.status = 0x5) = true := by
  decide
/-- V-ST-1. -/
theorem test_push_full :
    after (step (fullBuffer.withFetchWord 16 0x1054)) (fun t => t.buf.length = 104 ∧ t.status = 0x6) = true := by decide
/-- F2 decoded (41_synchronizer.md R129, its example, V-DC-2). -/
theorem test_attempt_packet :
    after (step ((buffered frameF2).withFetchWord 16 0x2000)) (fun t =>
      t.status = 0x4 ∧ t.need = 0 ∧ t.buf = [] ∧ t.pkt.n = 4 ∧ t.pkt.ver = 1 ∧ t.pkt.speed = 3600 ∧
      t.pkt.startAngle = 35000 ∧ t.pkt.endAngle = 1000 ∧ t.pkt.ts = 0xFFFF ∧ t.pkt.crc = 0x63 ∧
      t.pkt.dist[3] = 800 ∧ t.pkt.conf[3] = 40 ∧ t.pkt.dist[4] = 0 ∧ t.pkt.valid) = true := by decide +kernel
/-- V-AT-13. -/
theorem test_attempt_needs_102 :
    after (step ((buffered [0x54, 0x1F]).withFetchWord 16 0x2000)) (fun t =>
      t.status = 0x1 ∧ t.need = 102 ∧ t.buf = [0x54, 0x1F]) = true := by decide
/-- 41_synchronizer.md R130, its example. -/
theorem test_drain_passes_noise :
    after (step ((buffered (0x00 :: frameF2)).withFetchWord 16 0x3000)) (fun t =>
      t.status = 0x4 ∧ t.buf = [] ∧ t.pkt.n = 4) = true := by decide +kernel
/-- DRAIN passes a rejected candidate, like V-DR-3: F0 with a bad checksum and then F0. -/
theorem test_drain_passes_rejected :
    after (step ((buffered (frameF0.set 10 0xCE ++ frameF0 ++ [0xAA])).withFetchWord 16 0x3000)) (fun t =>
      t.status = 0x4 ∧ t.buf = [0xAA] ∧ t.pkt.n = 0 ∧ t.pkt.crc = 0xCF) = true := by decide
/-- 43_interpolator.md R173, its example (V-IP-2, i = 3). -/
theorem test_point_corrected :
    after (step (holdingF2.withFetchWord 16 0x4003)) (fun t =>
      t.status = 0x7 ∧ t.pt.span = 2000 ∧ t.pt.num = 2000 ∧ t.pt.den = 400 ∧ t.pt.dist = 800 ∧ t.pt.conf = 40 ∧
      t.pt.idx = 3 ∧ t.pt.valid) = true := by decide
/-- V-IP-2, i = 2: exactly 360° is not corrected. -/
theorem test_point_exactly_360 :
    after (step (holdingF2.withFetchWord 16 0x4002)) (fun t => t.pt.num = 144000 ∧ t.pt.den = 400) = true := by decide
/-- V-CRC-15. -/
theorem test_crcclr :
    after (step (({ State.reset with crcAcc := 0xD8 }).withFetchWord 16 0x5000)) (fun t =>
      t.crcAcc = 0 ∧ t.status = 0xA) = true := by decide
/-- V-CRC-12, its second step. -/
theorem test_crcb :
    after (step (({ State.reset with crcAcc := 0xEE }).withFetchWord 16 0x602C)) (fun t =>
      t.crcAcc = 0xD8 ∧ t.status = 0xA) = true := by decide
/-- V-ST-2. -/
theorem test_fail :
    after (step ((buffered [0x54]).withFetchWord 16 0x7000)) (fun t =>
      t.fatal ∧ t.status = 0xC ∧ t.buf = [0x54]) = true := by decide
/-- V-ST-3, with an illegal word. -/
theorem test_fatal_ignores_illegal :
    after (step (failed.withFetchWord 16 0x0000)) (fun t => t.status = 0xC ∧ t.fatal) = true := by decide
/-- V-ST-4. -/
theorem test_illegal_reports :
    after (step ((buffered [0x54]).withFetchWord 16 0x2001)) (fun t => t.status = 0xB ∧ t.buf = [0x54]) = true := by
  decide
/-- V-ST-5. -/
theorem test_reset_signal :
    after (step { failed with buf := [0x54], crcAcc := 0xD8, port := [.reset] }) (fun t =>
      !t.fatal ∧ t.status = 0 ∧ t.buf = [] ∧ t.crcAcc = 0) = true := by decide
/-- A step with nothing on the port is refused (log 4). -/
theorem test_no_command : stopsForWantOfCommand (step State.reset) = true := by decide

/-! ### Shared functions -/

/-- V-CRC-7 and V-CRC-8. -/
theorem test_crc8 :
    crc8 defaultConfig [0x54, 0x2C] = 0xD8 ∧
    crc8 defaultConfig [0x31, 0x32, 0x33, 0x34, 0x35, 0x36, 0x37, 0x38, 0x39] = 0xC3 := by decide
/-- V-HDR-5 and V-HDR-7. -/
theorem test_header :
    hdrVer 0xFF = 7 ∧ hdrLen 0xFF = 104 ∧ hdrVer 0x54 = 2 ∧ hdrCount 0x54 = 20 ∧ hdrLen 0x54 = 71 := by decide
/-- V-IP-4e and V-IP-4g: the spans under EUCLID and TRUNC. -/
theorem test_span_readings :
    spanReduce .euclid (0 + 36000 - 65535) = 6465 ∧ spanReduce .trunc (0 + 36000 - 65535) = -29535 ∧
    spanReduce .euclid (1000 + 36000 - 50000) = 23000 ∧ spanReduce .trunc (1000 + 36000 - 50000) = -13000 := by decide
/-- V-IP-4h: one correction only. -/
theorem test_one_correction : correctOnce 2 167069 = 95069 := by decide
/-- 42_decoder.md R156 on F2. -/
theorem test_wire_round_trip : encodePacket 0x54 (decodeFrame frameF2) = frameF2 := by decide
/-- The text form, with a comment and a pseudo-command (30_encoding.md R86, R87; the words of program P4's start). -/
theorem test_assemble_text :
    assembleText "CRCSEQ 0x54, 44 ; two bytes\n.word 0x0000\nATTEMPT".toList =
      .ok [0x5000, 0x6054, 0x602C, 0x0000, 0x2000] := by decide
theorem test_assemble_range : assembleText "PUSH 256".toList = .error .operandRange := by decide

/-! ### Witnesses: the premises of the statements can be met -/

theorem witness_decode_encode : (Instr.point 255).wf := by decide
theorem witness_encode_decode : decode 0x10FF#16 = .ok (.push 0xFF) := by decide
theorem witness_map_operand :
    decode 0x10FF#16 = .ok (.push 0xFF#8) ∧ decode 0x4000#16 = .ok (.point 0#8) ∧
    decode 0x6001#16 = .ok (.crcb 1#8) ∧
    (⟨"FAIL", 0x7000, 0xFFFF⟩ : OpRow) ∈ opTable ∧ 0x7000#16 &&& 0xFFFF#16 = 0x7000#16 := by decide
theorem witness_illegal_word : ∃ r, decode 0x8000#16 = .error r := ⟨.badOp, by decide⟩
theorem witness_step_runs :
    ∃ (s : State) (w : CmdWord) (rest : List PortEvent) (i : Instr),
      s.port = .word w :: rest ∧ decode w = .ok i :=
  ⟨{ State.reset with port := [.word 0x2000, .reset] }, 0x2000, [.reset], .attempt, rfl, by decide⟩
theorem witness_fetch_word : decodeTableWord 16 0x40FF = some (.point 255) := by decide
theorem witness_illegal_reports :
    ∃ (s : State) (w w' : CmdWord) (rest' : List PortEvent) (r : Illegal) (i : Instr),
      s.port = .word w :: .word w' :: rest' ∧ decode w = .error r ∧ s.fatal = false ∧ decode w' = .ok i :=
  ⟨{ State.reset with port := [.word 0x0000, .word 0x5000] }, 0x0000, 0x5000, [], .badOp, .crcclr, rfl, by decide, rfl,
    by decide⟩
theorem witness_fatal_word :
    ∃ (s : State) (w : CmdWord) (rest : List PortEvent), s.fatal = true ∧ s.port = .word w :: rest :=
  ⟨{ failed with port := [.word 0x2000] }, 0x2000, [], rfl, rfl⟩
theorem witness_fatal_cleared : ∃ s t : State, s.fatal = true ∧ step s = .next t ∧ t.fatal = false :=
  ⟨{ failed with port := [.reset] }, _, rfl, rfl, rfl⟩
theorem witness_reset_signal : ∃ (s : State) (rest : List PortEvent), s.port = .reset :: rest :=
  ⟨{ failed with port := [.reset, .word 0x2000] }, [.word 0x2000], rfl⟩
theorem witness_reset_state : State.reset = State.reset ∨ ∃ c, State.reset = State.resetWith c := .inl rfl
theorem witness_port_nonempty : ({ State.reset with port := [.reset] } : State).port ≠ [] := by decide
theorem witness_port_empty : State.reset.port = [] := rfl
theorem witness_push_full :
    fullBuffer.fatal = false ∧ fullBuffer.buf.length = fullBuffer.cfg.bufCapacity ∧
    104 ≤ fullBuffer.cfg.bufCapacity := by decide
theorem witness_push_room :
    (buffered (List.replicate 255 0)).fatal = false ∧
    (buffered (List.replicate 255 0)).buf.length ≠ (buffered (List.replicate 255 0)).cfg.bufCapacity := by decide +kernel
theorem witness_push_fatal : failed.fatal = true := rfl
theorem witness_header_empty : (buffered []).fatal = false ∧ (buffered []).buf.length < 2 := by decide
theorem witness_header_one : (buffered [0x00]).fatal = false ∧ (buffered [0x00]).buf.length < 2 := by decide
theorem witness_resync :
    (buffered [0x00, 0x54]).fatal = false ∧ 2 ≤ (buffered [0x00, 0x54]).buf.length ∧
    byteAt (buffered [0x00, 0x54]).buf 0 ≠ (buffered [0x00, 0x54]).cfg.headerIndicator := by decide
/-- The largest amount, 102. -/
theorem witness_body_stage :
    (buffered [0x54, 0x1F]).fatal = false ∧ 2 ≤ (buffered [0x54, 0x1F]).buf.length ∧
    byteAt (buffered [0x54, 0x1F]).buf 0 = (buffered [0x54, 0x1F]).cfg.headerIndicator ∧
    104 = 11 + 3 * (byteAt (buffered [0x54, 0x1F]).buf 1 &&& 0x1F#8).toNat ∧
    (buffered [0x54, 0x1F]).buf.length < 104 := by decide
/-- The smallest amount, 1. -/
theorem witness_body_stage_one_missing :
    (buffered (frameF0.take 10)).fatal = false ∧ 2 ≤ (buffered (frameF0.take 10)).buf.length ∧
    byteAt (buffered (frameF0.take 10)).buf 0 = (buffered (frameF0.take 10)).cfg.headerIndicator ∧
    11 = 11 + 3 * (byteAt (buffered (frameF0.take 10)).buf 1 &&& 0x1F#8).toNat ∧
    (buffered (frameF0.take 10)).buf.length < 11 := by decide
theorem witness_rejects :
    (buffered (frameF0.set 10 0xCE)).fatal = false ∧ 2 ≤ (buffered (frameF0.set 10 0xCE)).buf.length ∧
    byteAt (buffered (frameF0.set 10 0xCE)).buf 0 = (buffered (frameF0.set 10 0xCE)).cfg.headerIndicator ∧
    11 = 11 + 3 * (byteAt (buffered (frameF0.set 10 0xCE)).buf 1 &&& 0x1F#8).toNat ∧
    11 ≤ (buffered (frameF0.set 10 0xCE)).buf.length ∧
    crc8 (buffered (frameF0.set 10 0xCE)).cfg ((buffered (frameF0.set 10 0xCE)).buf.take 10) ≠
      byteAt (buffered (frameF0.set 10 0xCE)).buf 10 := by decide
theorem witness_packet :
    (buffered frameF2).fatal = false ∧ 2 ≤ (buffered frameF2).buf.length ∧
    byteAt (buffered frameF2).buf 0 = (buffered frameF2).cfg.headerIndicator ∧
    4 = (byteAt (buffered frameF2).buf 1 &&& 0x1F#8).toNat ∧ 23 = 11 + 3 * 4 ∧ 23 ≤ (buffered frameF2).buf.length ∧
    crc8 (buffered frameF2).cfg ((buffered frameF2).buf.take 22) = byteAt (buffered frameF2).buf 22 := by decide +kernel
theorem witness_idempotent :
    ∃ t, exec .attempt (buffered [0x54]) = .next t ∧ (buffered [0x54]).fatal = false ∧ t.status = 0x1#4 :=
  ⟨_, rfl, rfl, by decide⟩
theorem witness_progress :
    104 ≤ fullBuffer.buf.length ∧ fullBuffer.cfg.wf ∧ fullBuffer.fatal = false ∧
    fullBuffer.buf.length = fullBuffer.cfg.bufCapacity := by decide
theorem witness_append_decided : (attemptCore defaultConfig [0x00, 0x54]).outcome ≠ .needMore := by decide
theorem witness_append_waiting :
    (attemptCore defaultConfig [0x54, 0x1F]).outcome = .needMore ∧
    ([0x00] : List Byte).length < (attemptCore defaultConfig [0x54, 0x1F]).amount := by decide
theorem witness_phases :
    phase defaultConfig [0x54] = .awaitingHeader ∧ phase defaultConfig [0x54, 0x20] = .awaitingBody ∧
    phase defaultConfig frameF0 = .frameReady := by decide
theorem witness_drain_settled :
    ∃ t, exec .attempt (buffered frameF0) = .next t ∧ (buffered frameF0).fatal = false ∧
      (t.status = 0x1#4 ∨ t.status = 0x4#4) := ⟨_, rfl, rfl, by decide⟩
theorem witness_drain_goes_on :
    ∃ t, exec .attempt (buffered [0x00, 0x54]) = .next t ∧ (buffered [0x00, 0x54]).fatal = false ∧
      (t.status = 0x2#4 ∨ t.status = 0x3#4) := ⟨_, rfl, rfl, by decide⟩
theorem witness_live : State.reset.fatal = false := rfl
theorem witness_fragmentation :
    State.reset.fatal = false ∧ State.reset.buf = [] ∧
    (runChunks [([0x54], .attempt), (frameF0.drop 1 ++ [0x00], .drain)] State.reset).full = false ∧
    (runChunks [([0x54], .attempt), (frameF0.drop 1 ++ [0x00], .drain)] State.reset).packets.length = 1 := by decide
theorem witness_piece :
    ∃ x ∈ ([(frameF0, some (decodeFrame frameF0))] : List (List Byte × Option Packet)),
      frameF0 = [x].flatMap Prod.fst ++ restOf defaultConfig frameF0 := by decide
theorem witness_noise_byte :
    (0x00#8 : Byte) ≠ defaultConfig.headerIndicator ∧ (buffered (0x00 :: (frameF0 ++ [0xAA]))).fatal = false ∧
    (buffered (0x00 :: (frameF0 ++ [0xAA]))).buf = 0x00 :: (frameF0 ++ [0xAA]) ∧ 2 ≤ frameF0.length ∧
    byteAt frameF0 0 = defaultConfig.headerIndicator ∧
    frameF0.length = 11 + 3 * (byteAt frameF0 1 &&& 0x1F#8).toNat ∧ frameOk defaultConfig frameF0 = true := by decide
theorem witness_packet_encoding :
    (decodeFrame frameF2).wf ∧
    (decodeFrame frameF2).crc =
      crc8 defaultConfig ((encodePacket 0x54 (decodeFrame frameF2)).take (frameLen (decodeFrame frameF2).n - 1)) := by
  decide +kernel
theorem witness_packet_received :
    (buffered (frameF2 ++ [0xAA])).fatal = false ∧ (decodeFrame frameF2).wf ∧
    (decodeFrame frameF2).crc = crc8 defaultConfig (packetBody 0x54 (decodeFrame frameF2)) ∧
    (buffered (frameF2 ++ [0xAA])).buf = encodePacket 0x54 (decodeFrame frameF2) ++ [0xAA] := by decide +kernel
theorem witness_pkt_changes :
    ∃ s t : State, step s = .next t ∧ t.pkt ≠ s.pkt :=
  ⟨{ holdingF2 with port := [.reset] }, _, rfl, by decide⟩
theorem witness_pkt_changes_by_packet :
    ∃ s t : State, step s = .next t ∧ t.pkt ≠ s.pkt ∧ s.port = [.word 0x3000] :=
  ⟨{ buffered frameF0 with port := [.word 0x3000] }, _, rfl, by decide, rfl⟩
theorem witness_crc_unit_frame :
    frameF0 ≠ [] ∧ frameOk defaultConfig frameF0 = true ∧ State.reset.cfg.crcTable = crcTableDefault ∧
    (issueAll (.crcclr :: frameF0.map .crcb) State.reset).crcAcc = State.reset.cfg.crcTable[0] :=
  ⟨by decide, by decide, rfl, by decide⟩
/-- One bit of the last byte of F0, and then one version bit. -/
theorem witness_bit_error :
    (buffered (frameF0.set 10 (byteAt frameF0 10 ^^^ (1#8 <<< 0)) ++ [0xAA])).cfg.crcTable = crcTableDefault ∧
    2 ≤ frameF0.length ∧ byteAt frameF0 0 = defaultConfig.headerIndicator ∧
    frameF0.length = 11 + 3 * (byteAt frameF0 1 &&& 0x1F#8).toNat ∧ frameOk defaultConfig frameF0 = true ∧
    10 < frameF0.length ∧ (buffered (frameF0.set 10 (byteAt frameF0 10 ^^^ (1#8 <<< 0)) ++ [0xAA])).fatal = false ∧
    (buffered (frameF0.set 10 (byteAt frameF0 10 ^^^ (1#8 <<< 0)) ++ [0xAA])).buf =
      frameF0.set 10 (byteAt frameF0 10 ^^^ (1#8 <<< 0)) ++ [0xAA] :=
  ⟨rfl, by decide, by decide, by decide, by decide, by decide, rfl, rfl⟩
theorem witness_bit_error_version : (1 = 1 ∧ 5 ≤ (5 : Fin 8).val) ∧ 1 < frameF0.length := by decide
theorem witness_point_no_packet : State.reset.fatal = false ∧ State.reset.pkt.valid = false := by decide
theorem witness_point_bad_index :
    holdingF2.fatal = false ∧ holdingF2.pkt.valid = true ∧ holdingF2.pkt.n.toNat ≤ (4#8 : Byte).toNat := by decide
/-- The last index of F2, under both readings of `mod`. -/
theorem witness_point_ok :
    holdingF2.fatal = false ∧ holdingF2.pkt.valid = true ∧ (3#8 : Byte).toNat < holdingF2.pkt.n.toNat ∧
    (35000 : Int) = holdingF2.pkt.startAngle.toNat ∧ (1000 : Int) = holdingF2.pkt.endAngle.toNat ∧
    (2000 : Int) = 1000 + 36000 - 35000 ∧ (2000 : Int) = 2000 % 36000 ∧
    (2000 : Int) = 2000 - 36000 * (2000 : Int).tdiv 36000 ∧ (146000 : Int) = 35000 * 4 + 2000 * 3 := by decide
theorem witness_zero_samples :
    ({ State.reset with pkt := pktRegsOf (decodeFrame frameF0) } : State).pkt.valid = true ∧
    ({ State.reset with pkt := pktRegsOf (decodeFrame frameF0) } : State).pkt.n = 0#5 := by decide
/-- The first and the last index of a packet of 31 samples. -/
theorem witness_point_index :
    0 < ({ PktRegs.zero with n := 31 } : PktRegs).n.toNat ∧ 30 < ({ PktRegs.zero with n := 31 } : PktRegs).n.toNat := by
  decide
/-- The boundary of the two readings: S = E + 36000, and one more. -/
theorem witness_span_readings :
    defaultConfig.spanMod = .euclid ∧ ({ defaultConfig with spanMod := .trunc } : Config).spanMod = .trunc ∧
    ({ PktRegs.zero with startAngle := 36000 } : PktRegs).startAngle.toNat ≤
      ({ PktRegs.zero with startAngle := 36000 } : PktRegs).endAngle.toNat + 36000 ∧
    ({ PktRegs.zero with startAngle := 36001 } : PktRegs).startAngle.toNat >
      ({ PktRegs.zero with startAngle := 36001 } : PktRegs).endAngle.toNat + 36000 := by decide
/-- Exactly 360° (V-IP-4c), a start above 360°, and more than 720° (V-IP-4i). -/
theorem witness_one_correction :
    span defaultConfig { PktRegs.zero with startAngle := 36000, n := 2 } = 0 ∧
    (36000 * 2 + 0 * 1 : Int) = 36000 * 2 ∧ 36000 < (65535#16 : Half).toNat ∧
    span defaultConfig { PktRegs.zero with startAngle := 65535, endAngle := 65534, n := 31 } = 35999 ∧
    (65535 * 31 + 35999 * 30 : Int) > 72000 * 31 := by decide
theorem witness_point_pure :
    ∃ s u : State, s.fatal = false ∧ u.fatal = false ∧ s.pkt = u.pkt ∧ s.cfg.spanMod = u.cfg.spanMod ∧ s ≠ u :=
  ⟨holdingF2, { holdingF2 with buf := [0x54] }, rfl, rfl, rfl, rfl,
    fun h => List.cons_ne_nil 0x54#8 [] (congrArg State.buf h).symm⟩
theorem witness_fatal_set : ∃ s t : State, step s = .next t ∧ s.fatal = false ∧ t.fatal = true :=
  ⟨{ State.reset with port := [.word 0x7000] }, _, rfl, rfl, rfl⟩
theorem witness_matrix :
    (∃ t, exec (.push 1) (buffered []) = .next t) ∧ (∃ t, exec .attempt (buffered frameF0) = .next t) ∧
    (∃ t, exec .drain (buffered frameF0) = .next t) ∧ (∃ t, exec (.point 3) holdingF2 = .next t) ∧
    (∃ t, exec .crcclr State.reset = .next t) ∧ (∃ t, exec (.crcb 1) State.reset = .next t) ∧
    (∃ t, exec .fail State.reset = .next t) ∧ (∃ t, illegalResponse State.reset = .next t) ∧
    (failed.fatal = true ∧ exec .attempt failed = .next failed) :=
  ⟨⟨_, rfl⟩, ⟨_, rfl⟩, ⟨_, rfl⟩, ⟨_, rfl⟩, ⟨_, rfl⟩, ⟨_, rfl⟩, ⟨_, rfl⟩, ⟨_, rfl⟩, rfl, rfl⟩
theorem witness_step : ∃ s t : State, step s = .next t :=
  ⟨{ State.reset with port := [.word 0x2000] }, _, rfl⟩
theorem witness_need_written :
    ∃ t, exec .attempt (buffered [0x54]) = .next t ∧ t.need ≠ (buffered [0x54]).need ∧ t.status = 0x1#4 :=
  ⟨_, rfl, by decide, by decide⟩
theorem witness_need_cleared :
    ∃ t, exec .drain (buffered frameF0) = .next t ∧ t.status ≠ 0x1#4 := ⟨_, rfl, by decide⟩
theorem witness_equal_readings :
    State.reset.cfg = State.reset.cfg ∧ State.reset.port = State.reset.port ∧
    ∀ r : ResultReg, readResult State.reset r = readResult State.reset r := ⟨rfl, rfl, fun _ => rfl⟩
theorem witness_legal_parameters : Config.wf { defaultConfig with bufCapacity := 104 } := by decide
theorem witness_inv_step_capacity : ({ State.reset with port := [.word 0x2000] } : State).bufBounded := by decide
theorem witness_pseudo :
    ([0x54] : List Byte) ≠ [] ∧ (256 : Nat) ≤ 256 ∧ (0 : Nat) ≤ 256 ∧ (255 : Nat) < 256 := by decide
theorem witness_feed_program :
    assembleLine (.feed (([0x54, 0xFF] : List Byte).map BitVec.toNat)) = .ok [0x1054, 0x10FF] ∧
    (buffered []).buf.length + ([0x54, 0xFF] : List Byte).length ≤ (buffered []).cfg.bufCapacity := by decide
theorem witness_feed_port :
    ∃ s : State, s.fatal = false ∧ s.buf = [] ∧ s.port = ([0x1054, 0x10FF] : List CmdWord).map .word :=
  ⟨{ State.reset with port := [.word 0x1054, .word 0x10FF] }, rfl, rfl, rfl⟩

/-- A state that meets the invariant and has a step to make: the one after reset with a command on the port. -/
theorem witness_inv : ∃ s t : State, s.Inv ∧ step s = .next t := by
  refine ⟨{ State.reset with port := [.word 0x2000] }, _, ?_, rfl⟩
  exact
    { bufBounded := by decide
      statusNamed := by decide
      needBounded := by decide
      fatalReported := by decide
      zeroBeforePacket := fun _ => ⟨rfl, rfl⟩
      unusedSlotsZero := by decide
      packetChecked := fun h => by cases h
      pointDescribesPacket := fun h => by cases h
      pointBounded := by decide }

end Sys2Proof.Tests
end

/-! What a step does with the first event of the port, that every command and every event completes, and that none writes
the parameters. -/

namespace Sys2Proof.Machine

/-! ### The step, by the first event of the port -/

theorem step_of_nil {s : State} (h : s.port = []) : step s = .refused .noCommand := by
  simp [step, h]

theorem step_of_cons {s : State} {e : PortEvent} {rest : List PortEvent} (h : s.port = e :: rest) :
    step s = execEvent e (s.setPort rest) := by
  simp [step, h]

theorem execWord_of_ok {w : CmdWord} {i : Instr} (h : decode w = .ok i) (s : State) : execWord w s = exec i s := by
  simp [execWord, h]

theorem execWord_of_error {w : CmdWord} {r : Illegal} (h : decode w = .error r) (s : State) :
    execWord w s = illegalResponse s := by
  simp [execWord, h]

/-- An opcode-table row's bits give a command exactly when the decoder accepts their word. -/
theorem decodeTableWord_eq_some_iff {nbits w : Nat} {i : Instr} :
    decodeTableWord nbits w = some i ↔ decode (tableWord nbits w) = .ok i := by
  unfold decodeTableWord
  cases decode (tableWord nbits w) <;> simp [Except.toOption]

/-! ### Completion (00_scope.md R12, 60_exceptions.md R205) -/

/-- A command completes: with the state it found while FATAL = 1, with its effect otherwise. -/
theorem exec_next (i : Instr) (s : State) : ∃ t, exec i s = .next t := by
  cases hf : s.fatal with
  | true => exact ⟨s, exec_of_fatal i hf⟩
  | false => exact ⟨liveEffect i s, exec_of_live i hf⟩

theorem execWord_next (w : CmdWord) (s : State) : ∃ t, execWord w s = .next t := by
  cases hd : decode w with
  | ok i =>
    rw [execWord_of_ok hd]
    exact exec_next i s
  | error r =>
    rw [execWord_of_error hd]
    exact guarded_next s (report .illegal)

theorem execEvent_next (e : PortEvent) (s : State) : ∃ t, execEvent e s = .next t := by
  cases e with
  | word w => exact execWord_next w s
  | reset => exact ⟨resetSignal s, rfl⟩

theorem step_next_of_port_ne_nil {s : State} (h : s.port ≠ []) : ∃ t, step s = .next t := by
  obtain ⟨e, rest, hp⟩ := List.exists_cons_of_ne_nil h
  rw [step_of_cons hp]
  exact execEvent_next e (s.setPort rest)

/-! ### The parameters (00_scope.md R8, 10_state.md R21) -/

@[simp] theorem pushByte_cfg (b : Byte) (s : State) : (pushByte b s).cfg = s.cfg := by
  unfold pushByte
  split_ifs
  · exact report_cfg _ _
  · simp [bufAppend]

@[simp] theorem pointEffect_cfg (i : Nat) (s : State) : (pointEffect i s).cfg = s.cfg := by
  obtain ⟨-, h⟩ | ⟨-, -, h⟩ | ⟨-, -, h⟩ := pointEffect_cases i s <;> rw [h]

@[simp] theorem liveEffect_cfg (i : Instr) (s : State) : (liveEffect i s).cfg = s.cfg := by
  cases i with
  | push b => exact pushByte_cfg b s
  | attempt => exact applyAttempt_cfg _ s
  | drain => exact applyAttempt_cfg _ s
  | point k => exact pointEffect_cfg k.toNat s
  | crcclr => rfl
  | crcb b => rfl
  | fail => rfl

theorem exec_keeps_cfg {i : Instr} {s t : State} (h : exec i s = .next t) : t.cfg = s.cfg := by
  obtain ⟨-, rfl⟩ | ⟨-, rfl⟩ := exec_cases h
  · rfl
  · exact liveEffect_cfg i s

theorem illegalResponse_keeps_cfg {s t : State} (h : illegalResponse s = .next t) : t.cfg = s.cfg := by
  obtain ⟨-, rfl⟩ | ⟨-, rfl⟩ := illegalResponse_cases h
  · rfl
  · exact report_cfg .illegal s

theorem step_keeps_cfg {s t : State} (h : step s = .next t) : t.cfg = s.cfg := by
  obtain ⟨rest, -, rfl⟩ | ⟨w, rest, i, -, -, hx⟩ | ⟨w, rest, r, -, -, hx⟩ := step_cases h
  · simp
  · simpa using exec_keeps_cfg hx
  · simpa using illegalResponse_keeps_cfg hx

/-! ### The obligations -/

/-- Settles O12: both branches of the FATAL check answer a next state, and so does every event a port can hold. -/
theorem everyCommandCompletes : Obligations.EveryCommandCompletes :=
  ⟨exec_next, fun _ => step_next_of_port_ne_nil, fun _ => step_of_nil⟩

/-- Settles O47, by the three things a step can do: the reset signal, a command, the ILLEGAL response. -/
theorem parametersNeverChange : Obligations.ParametersNeverChange :=
  fun _ _ => step_keeps_cfg

/-- Settles O7: the first event is taken off the port and its word decoded. -/
theorem stepRunsDecodedCommand : Obligations.StepRunsDecodedCommand := by
  constructor
  · intro s w rest i hp hd
    calc step s = execWord w (s.setPort rest) := step_of_cons hp
      _ = exec i { s with port := rest } := execWord_of_ok hd _
  · intro s nbits w i hd
    rw [step_withFetchWord]
    exact execWord_of_ok (decodeTableWord_eq_some_iff.mp hd) s

end Sys2Proof.Machine

/-! What a frame that passes its check says of the packet decoded from it, the ranges of the angle values, and that every
step keeps the invariant. -/

namespace Sys2Proof.Machine

/-! ### A frame is the wire form of the packet decoded from it (42_decoder.md R156) -/

theorem map_byteAt_range (f : List Byte) : (List.range f.length).map (byteAt f) = f :=
  List.ext_getElem (by simp) fun k _ h => by simp [byteAt_of_lt h]

theorem le16Bytes_le16At_eq_map (f : List Byte) (o : Nat) :
    le16Bytes (le16At f o) = (List.range' o 2).map (byteAt f) := le16Bytes_le16At f o

theorem sampleBytes_frameSample (f : List Byte) (k : Nat) :
    sampleBytes (frameSample f k) = (List.range' (6 + 3 * k) 3).map (byteAt f) := by
  have h8 : 8 + 3 * k = 6 + 3 * k + 1 + 1 := by omega
  simp [sampleBytes, frameSample, le16Bytes_le16At, List.range', h8]

/-- The samples of a frame, written again, are its bytes from offset 6 on. -/
theorem flatMap_sampleBytes_frameSample (f : List Byte) (n : Nat) :
    ((List.range n).map (frameSample f)).flatMap sampleBytes = (List.range' 6 (3 * n)).map (byteAt f) := by
  induction n with
  | zero => rfl
  | succ n ih =>
    have hsplit : List.range' 6 (3 * (n + 1)) = List.range' 6 (3 * n) ++ List.range' (6 + 3 * n) 3 := by
      simp [Nat.mul_succ]
    rw [hsplit, List.range_succ, List.map_append, List.flatMap_append, ih, List.map_append]
    simp [sampleBytes_frameSample]

/-- The fields of a frame lie side by side, from its first byte to its checksum (30_encoding.md R70). -/
theorem frame_layout (n : Nat) :
    List.range (11 + 3 * n) = [0, 1] ++ List.range' 2 2 ++ List.range' 4 2 ++ List.range' 6 (3 * n) ++
      List.range' (6 + 3 * n) 2 ++ List.range' (8 + 3 * n) 2 ++ [10 + 3 * n] := by
  have hlen : 11 + 3 * n = 2 + 2 + 2 + 3 * n + 2 + 2 + 1 := by omega
  have h8 : 6 + 3 * n + 2 = 8 + 3 * n := by omega
  have h10 : 8 + 3 * n + 2 = 10 + 3 * n := by omega
  rw [List.range_eq_range', hlen]
  simp only [← List.range'_append_1, Nat.zero_add]
  simp only [Nat.reduceAdd, h8, h10]
  rfl

/-- A sequence of the length its header describes is the encoding of the packet decoded from it. -/
theorem encodePacket_decodeFrame {f : List Byte} (hl : f.length = hdrLen (byteAt f 1)) :
    encodePacket (byteAt f 0) (decodeFrame f) = f := by
  have hn : f.length = 11 + 3 * (hdrCount (byteAt f 1)).toNat := by rw [hl, hdrLen, frameLen_eq]
  calc encodePacket (byteAt f 0) (decodeFrame f)
      = (List.range f.length).map (byteAt f) := by
        rw [hn, frame_layout]
        simp only [encodePacket, packetBody, decodeFrame, headerByte_parse, le16Bytes_le16At_eq_map,
          flatMap_sampleBytes_frameSample, List.map_append, List.map_cons, List.map_nil]
    _ = f := map_byteAt_range f

/-! ### The ranges of the angle values (43_interpolator.md R176) -/

theorem span_bounds (cfg : Config) (r : PktRegs) : -29535 ≤ span cfg r ∧ span cfg r ≤ 35999 := by
  obtain ⟨x, -, hlo, hhi, h | h | h⟩ := span_cases cfg r <;> omega

/-- A negative span is no lower than the start angle makes it. -/
theorem start_add_span_nonneg (cfg : Config) (r : PktRegs) : 0 ≤ (r.startAngle.toNat : Int) + span cfg r := by
  obtain ⟨x, hx, -, -, h | h | h⟩ := span_cases cfg r <;> omega

/-- The numerator before its correction. -/
theorem start_mul_add_span_mul_bounds (cfg : Config) (r : PktRegs) {i : Nat} (hi : i < r.n.toNat) :
    0 ≤ (r.startAngle.toNat : Int) * r.n.toNat + span cfg r * i ∧
    (r.startAngle.toNat : Int) * r.n.toNat + span cfg r * i ≤ 3111555 := by
  have hS : r.startAngle.toNat ≤ 65535 := Nat.le_of_lt_succ r.startAngle.isLt
  have hN : r.n.toNat ≤ 31 := Nat.le_of_lt_succ r.n.isLt
  have hsum := start_add_span_nonneg cfg r
  obtain ⟨-, hspan⟩ := span_bounds cfg r
  generalize span cfg r = d at *
  generalize r.startAngle.toNat = S at *
  generalize r.n.toNat = N at *
  constructor
  · have h1 : 0 ≤ ((S : Int) + d) * i := mul_nonneg hsum (by omega)
    have h2 : (S : Int) * i ≤ S * N := by gcongr
    linarith
  · have h1 : (S : Int) * N ≤ 65535 * 31 := by gcongr <;> omega
    have h2 : d * i ≤ 35999 * i := by gcongr
    omega

theorem correctOnce_bounds {n : Nat} {a : Int} (h : 0 ≤ a) : 0 ≤ correctOnce n a ∧ correctOnce n a ≤ a := by
  unfold correctOnce fullTurn
  split_ifs <;> omega

theorem angleNum_bounds (cfg : Config) (r : PktRegs) {i : Nat} (hi : i < r.n.toNat) :
    0 ≤ angleNum cfg r i ∧ angleNum cfg r i ≤ 3111555 := by
  obtain ⟨h0, h1⟩ := start_mul_add_span_mul_bounds cfg r hi
  obtain ⟨hc0, hc1⟩ := correctOnce_bounds (n := r.n.toNat) h0
  exact ⟨hc0, hc1.trans h1⟩

theorem angleDen_le (r : PktRegs) : angleDen r ≤ 3100 := by
  have := r.n.isLt
  unfold angleDen; omega

/-- Nothing of a point's values is cut off by PT_SPAN, PT_NUM and PT_DEN (10_state.md R32). -/
theorem pointRegs_bounds (cfg : Config) (r : PktRegs) {i : Nat} (hi : i < r.n.toNat) :
    -29535 ≤ (pointRegs cfg r i).span.toInt ∧ (pointRegs cfg r i).span.toInt ≤ 35999 ∧
    (pointRegs cfg r i).num.toNat ≤ 3111555 ∧ (pointRegs cfg r i).den.toNat ≤ 3100 := by
  obtain ⟨hs0, hs1⟩ := span_bounds cfg r
  obtain ⟨ha0, ha1⟩ := angleNum_bounds cfg r hi
  have hspan : (pointRegs cfg r i).span.toInt = span cfg r := ofInt_span_toInt hs0 hs1
  have hnum : ((pointRegs cfg r i).num.toNat : Int) = angleNum cfg r i := ofInt_num_toNat ha0 ha1
  have hden : (pointRegs cfg r i).den.toNat ≤ angleDen r := by
    simpa [pointRegs] using Nat.mod_le _ _
  have := angleDen_le r
  omega

theorem pointRegs_idx (cfg : Config) (r : PktRegs) {i : Nat} (hi : i < r.n.toNat) :
    (pointRegs cfg r i).idx.toNat = i := by
  have := r.n.isLt
  simp [pointRegs]; omega

/-! ### What ATTEMPT and DRAIN apply (41_synchronizer.md R129, R130) -/

/-- A packet an attempt returns is one whose wire form passed the check (41_synchronizer.md R128). -/
theorem attemptCore_packet_checked {cfg : Config} {B : List Byte} {p : Packet}
    (h : (attemptCore cfg B).packet = some p) : frameOk cfg (encodePacket cfg.headerIndicator p) = true := by
  revert h
  refine attemptCore_all (P := fun r => r.packet = some p → _) fun r hc => ?_
  cases hc with
  | header | noise | body | rejected => simp
  | packet h2 hi hl hf =>
    rintro ⟨rfl⟩
    have hb := hdrLen_bounds (byteAt B 1)
    set f := B.take (hdrLen (byteAt B 1)) with hfdef
    have h0 : byteAt f 0 = cfg.headerIndicator := by rw [hfdef, byteAt_take (by omega), hi]
    have h1 : byteAt f 1 = byteAt B 1 := byteAt_take (by omega)
    have hlen : f.length = hdrLen (byteAt f 1) := by rw [h1, hfdef, List.length_take_of_le hl]
    rw [← h0, encodePacket_decodeFrame hlen, hf]

theorem ofNat_attemptCore_amount (cfg : Config) (B : List Byte) :
    (BitVec.ofNat 7 (attemptCore cfg B).amount).toNat = (attemptCore cfg B).amount := by
  have := attemptCore_amount_le cfg B
  simp; omega

/-- Both ATTEMPT and DRAIN apply the result of one attempt, on what is left of BUF. -/
theorem liveEffect_poll {i : Instr} (hi : i = .attempt ∨ i = .drain) (s : State) :
    ∃ j ≤ s.buf.length, liveEffect i s = applyAttempt (attemptCore s.cfg (s.buf.drop j)) s := by
  obtain rfl | rfl := hi
  · exact ⟨0, Nat.zero_le _, rfl⟩
  · obtain ⟨j, hj, hd⟩ := drainCore_is_attempt s.cfg s.buf.length s.buf
    exact ⟨j, hj, congrArg (applyAttempt · s) hd⟩

/-! ### The invariant (Safety.lean), operation by operation -/

theorem inv_resetWith {c : Config} (hc : c.wf) : (State.resetWith c).Inv where
  bufBounded := ⟨hc, Nat.zero_le _⟩
  statusNamed := by simp
  needBounded := by simp
  fatalReported := by simp [State.fatalReported, StatusCode.bits]
  zeroBeforePacket := fun _ => ⟨rfl, rfl⟩
  unusedSlotsZero := fun k _ => by simp [PktRegs.zero]
  packetChecked := by simp [PktRegs.zero]
  pointDescribesPacket := by simp [PtRegs.zero]
  pointBounded := by simp [State.pointBounded, PtRegs.zero]

/-- A report other than FATAL keeps the invariant. -/
theorem report_keeps_inv {s : State} (h : s.Inv) (hf : s.fatal = false) {c : StatusCode} (hc : c ≠ .fatal) :
    (report c s).Inv :=
  h.write_common hf s.buf h.bufBounded.2 c hc s.need h.needBounded s.crcAcc

theorem pushByte_keeps_inv {s : State} (h : s.Inv) (hf : s.fatal = false) (b : Byte) : (pushByte b s).Inv := by
  have hb := pushByte_keeps_bound (b := b) h.bufBounded.2
  unfold pushByte at hb ⊢
  split_ifs at hb ⊢
  · exact report_keeps_inv h hf (by decide)
  · exact h.write_common hf _ hb .pushed (by decide) s.need h.needBounded s.crcAcc

theorem outcomeCode_ne_fatal (o : AttemptOutcome) : outcomeCode o ≠ .fatal := by cases o <;> decide

/-- Writing a packet that passed its check keeps the invariant (42_decoder.md R151). -/
theorem writePacket_keeps_inv {s : State} (h : s.Inv) {p : Packet} (hp : p.wf)
    (hc : frameOk s.cfg (encodePacket s.cfg.headerIndicator p) = true) : (writePacket p s).Inv where
  bufBounded := h.bufBounded
  statusNamed := h.statusNamed
  needBounded := h.needBounded
  fatalReported := h.fatalReported
  zeroBeforePacket := fun hv => by cases hv
  unusedSlotsZero := fun k hk => by simp [slotOf_unused hk]
  packetChecked := fun _ => by simpa [packetOfRegs_pktRegsOf hp] using hc
  pointDescribesPacket := by simp [PtRegs.invalidated]
  pointBounded := h.pointBounded

/-- Applying an attempt on what is left of BUF keeps the invariant. -/
theorem applyAttempt_keeps_inv {s : State} (h : s.Inv) (hf : s.fatal = false) (j : Nat) :
    (applyAttempt (attemptCore s.cfg (s.buf.drop j)) s).Inv := by
  have hrest : (attemptCore s.cfg (s.buf.drop j)).rest.length ≤ s.cfg.bufCapacity :=
    calc _ ≤ (s.buf.drop j).length := attemptCore_rest_length_le _ _
      _ ≤ s.buf.length := by simp
      _ ≤ s.cfg.bufCapacity := h.bufBounded.2
  have hneed := (ofNat_attemptCore_amount s.cfg (s.buf.drop j)).trans_le (attemptCore_amount_le _ _)
  have hcode := outcomeCode_ne_fatal (attemptCore s.cfg (s.buf.drop j)).outcome
  cases hp : (attemptCore s.cfg (s.buf.drop j)).packet with
  | none =>
    rw [applyAttempt_none _ hp]
    exact h.write_common hf _ hrest _ hcode _ hneed s.crcAcc
  | some p =>
    have hw := writePacket_keeps_inv h (attemptCore_packet_wf hp) (attemptCore_packet_checked hp)
    rw [applyAttempt_some _ hp]
    exact hw.write_common hf _ hrest _ hcode _ hneed s.crcAcc

/-- Writing a point of the packet held keeps the invariant (43_interpolator.md R173). -/
theorem setPt_pointRegs_keeps_inv {s : State} (h : s.Inv) (hv : s.pkt.valid = true) {i : Nat}
    (hi : i < s.pkt.n.toNat) : (s.setPt (pointRegs s.cfg s.pkt i)).Inv where
  bufBounded := h.bufBounded
  statusNamed := h.statusNamed
  needBounded := h.needBounded
  fatalReported := h.fatalReported
  zeroBeforePacket := by simp [hv]
  unusedSlotsZero := h.unusedSlotsZero
  packetChecked := h.packetChecked
  pointDescribesPacket := fun _ => by simp [pointRegs_idx s.cfg s.pkt hi, hv, hi]
  pointBounded := pointRegs_bounds s.cfg s.pkt hi

theorem pointEffect_keeps_inv {s : State} (h : s.Inv) (hf : s.fatal = false) (i : Nat) : (pointEffect i s).Inv := by
  obtain ⟨-, he⟩ | ⟨-, -, he⟩ | ⟨hv, hi, he⟩ := pointEffect_cases i s
  · rw [he]; exact report_keeps_inv h hf (c := .noPacket) (by decide)
  · rw [he]; exact report_keeps_inv h hf (c := .badIndex) (by decide)
  · rw [he]; exact report_keeps_inv (setPt_pointRegs_keeps_inv h hv hi) hf (c := .pointOk) (by decide)

/-- FAIL raises FATAL together with its status (60_exceptions.md R201). -/
theorem fail_keeps_inv {s : State} (h : s.Inv) : ({ s with fatal := true, status := 0xC } : State).Inv :=
  { h with statusNamed := StatusCode.fatal.bits_le, fatalReported := ⟨fun _ => rfl, fun _ => rfl⟩ }

theorem liveEffect_keeps_inv {s : State} (h : s.Inv) (hf : s.fatal = false) (i : Instr) : (liveEffect i s).Inv := by
  have hcrc (a : Byte) : ({ s with crcAcc := a, status := 0xA } : State).Inv :=
    h.write_common hf s.buf h.bufBounded.2 .crcOk (by decide) s.need h.needBounded a
  have hpoll (hi : i = .attempt ∨ i = .drain) : (liveEffect i s).Inv := by
    obtain ⟨j, -, he⟩ := liveEffect_poll hi s
    rw [he]; exact applyAttempt_keeps_inv h hf j
  cases i with
  | push b => exact pushByte_keeps_inv h hf b
  | attempt => exact hpoll (.inl rfl)
  | drain => exact hpoll (.inr rfl)
  | point k => exact pointEffect_keeps_inv h hf k.toNat
  | crcclr => exact hcrc _
  | crcb b => exact hcrc _
  | fail => exact fail_keeps_inv h

theorem exec_keeps_inv {i : Instr} {s t : State} (h : s.Inv) (hx : exec i s = .next t) : t.Inv := by
  obtain ⟨-, rfl⟩ | ⟨hf, rfl⟩ := exec_cases hx
  · exact h
  · exact liveEffect_keeps_inv h hf i

theorem illegalResponse_keeps_inv {s t : State} (h : s.Inv) (hx : illegalResponse s = .next t) : t.Inv := by
  obtain ⟨-, rfl⟩ | ⟨hf, rfl⟩ := illegalResponse_cases hx
  · exact h
  · exact report_keeps_inv h hf (by decide)

theorem step_keeps_inv {s t : State} (h : s.Inv) (hs : step s = .next t) : t.Inv := by
  obtain ⟨rest, -, rfl⟩ | ⟨w, rest, i, -, -, hx⟩ | ⟨w, rest, r, -, -, hx⟩ := step_cases hs
  · exact (inv_resetWith h.bufBounded.1).setPort rest
  · exact exec_keeps_inv (h.setPort rest) hx
  · exact illegalResponse_keeps_inv (h.setPort rest) hx

/-- Settles O55: reset, each command and the ILLEGAL response keep every clause; a packet that reaches the registers is the
decoding of a frame that passed, and its wire form is that frame. -/
theorem stepKeepsInv : Obligations.StepKeepsInv :=
  fun _ _ => step_keeps_inv

/-- Settles O54, for any legal capacity; the assumed one is 256. -/
theorem resetMeetsInv : Obligations.ResetMeetsInv :=
  ⟨inv_resetWith (c := defaultConfig) (by decide), fun _ => inv_resetWith⟩

end Sys2Proof.Machine

/-! What each command and each event writes: the phase of BUF, FATAL, the write matrix, the ends of BUF, the STATUS codes,
NEED, what no command reads, and the result port. -/

namespace Sys2Proof.Machine

/-! ### The phase of BUF (10_state.md R34) -/

/-- The phase BUF is in, by the case of the next attempt. -/
theorem phase_of_case {cfg : Config} {B : List Byte} {r : AttemptResult} (h : AttemptCase cfg B r) :
    (phase cfg B = .awaitingHeader ∧ r.outcome = if B.length < 2 then .needMore else .resync) ∨
    (phase cfg B = .awaitingBody ∧ r.outcome = .needMore) ∨
    (phase cfg B = .frameReady ∧ (r.outcome = .packet ∨ r.outcome = .rejected)) := by
  cases h with
  | header h => exact .inl (by simp [phase, h])
  | noise h hi => exact .inl (by simp [phase, hi, Nat.not_lt.mpr h])
  | body h hi hl => exact .inr (.inl (by simp [phase, hi, hl, Nat.not_lt.mpr h]))
  | rejected h hi hl => exact .inr (.inr (by simp [phase, hi, Nat.not_lt.mpr h, Nat.not_lt.mpr hl]))
  | packet h hi hl => exact .inr (.inr (by simp [phase, hi, Nat.not_lt.mpr h, Nat.not_lt.mpr hl]))

/-- Settles O22: one phase for each group of the attempt's cases. -/
theorem phaseTellsOutcome : Obligations.PhaseTellsOutcome := by
  intro cfg B
  obtain ⟨hp, ho⟩ | ⟨hp, ho⟩ | ⟨hp, ho⟩ := phase_of_case (attemptCore_cases cfg B)
  · split_ifs at ho <;> simp [*]
  · simp [hp, ho]
  · simp [hp, ho]

/-! ### FATAL (10_state.md R27) -/

@[simp] theorem pushByte_fatal (b : Byte) (s : State) : (pushByte b s).fatal = s.fatal := by
  unfold pushByte
  split_ifs <;> rfl

@[simp] theorem pointEffect_fatal (i : Nat) (s : State) : (pointEffect i s).fatal = s.fatal := by
  obtain ⟨-, h⟩ | ⟨-, -, h⟩ | ⟨-, -, h⟩ := pointEffect_cases i s <;> rw [h]

theorem liveEffect_fatal_of_ne_fail {i : Instr} (hi : i ≠ .fail) (s : State) :
    (liveEffect i s).fatal = s.fatal := by
  cases i with
  | push b => exact pushByte_fatal b s
  | attempt => exact applyAttempt_fatal _ s
  | drain => exact applyAttempt_fatal _ s
  | point k => exact pointEffect_fatal k.toNat s
  | crcclr => rfl
  | crcb b => rfl
  | fail => exact absurd rfl hi

/-- A command that changes FATAL is FAIL, and FATAL was 0. -/
theorem exec_fatal_of_ne {i : Instr} {s t : State} (h : exec i s = .next t) (hne : t.fatal ≠ s.fatal) :
    i = .fail ∧ s.fatal = false := by
  obtain ⟨-, rfl⟩ | ⟨hf, rfl⟩ := exec_cases h
  · exact absurd rfl hne
  · exact ⟨by_contra fun hi => hne (liveEffect_fatal_of_ne_fail hi s), hf⟩

theorem illegalResponse_fatal {s t : State} (h : illegalResponse s = .next t) : t.fatal = s.fatal := by
  obtain ⟨-, rfl⟩ | ⟨-, rfl⟩ := illegalResponse_cases h
  · rfl
  · exact report_fatal .illegal s

theorem eq_of_decode_eq_fail {w : CmdWord} (h : decode w = .ok .fail) : w = 0x7000#16 := by
  unfold decode at h
  split_ifs at h <;> cases h
  assumption

/-- What a step that changes FATAL took from the port. -/
theorem step_fatal_of_ne {s t : State} (h : step s = .next t) (hne : t.fatal ≠ s.fatal) :
    (∃ rest, s.port = .reset :: rest ∧ t.fatal = false) ∨
    (∃ rest, s.port = .word 0x7000#16 :: rest ∧ s.fatal = false) := by
  obtain ⟨rest, hp, rfl⟩ | ⟨w, rest, i, hp, hd, hx⟩ | ⟨w, rest, r, hp, -, hx⟩ := step_cases h
  · exact .inl ⟨rest, hp, rfl⟩
  · obtain ⟨rfl, hf⟩ := exec_fatal_of_ne hx hne
    exact .inr ⟨rest, eq_of_decode_eq_fail hd ▸ hp, hf⟩
  · exact absurd (illegalResponse_fatal hx) hne

/-- Settles O45: reset leaves FATAL 0 and FAIL finds it 0, so the two directions do not mix. -/
theorem fatalWrittenOnlyByFailAndReset : Obligations.FatalWrittenOnlyByFailAndReset := by
  refine ⟨rfl, fun s t h => ⟨fun hs ht => ?_, fun hs ht => ?_⟩⟩
  · obtain ⟨rest, hp, ht'⟩ | ⟨rest, hp, -⟩ := step_fatal_of_ne h (by simp [hs, ht])
    · simp [ht] at ht'
    · exact ⟨rest, hp⟩
  · obtain ⟨rest, hp, -⟩ | ⟨rest, hp, hs'⟩ := step_fatal_of_ne h (by simp [hs, ht])
    · exact ⟨rest, hp⟩
    · simp [hs] at hs'

/-! ### The write matrix (10_state.md R36) -/

theorem pushByte_frame (b : Byte) (s : State) :
    pushByte b s = { s with buf := (pushByte b s).buf, status := (pushByte b s).status } := by
  unfold pushByte
  split_ifs <;> rfl

theorem pointEffect_frame (i : Nat) (s : State) :
    pointEffect i s = { s with status := (pointEffect i s).status, pt := (pointEffect i s).pt } := by
  obtain ⟨-, h⟩ | ⟨-, -, h⟩ | ⟨-, -, h⟩ := pointEffect_cases i s <;> rw [h]

theorem applyAttempt_frame (r : AttemptResult) (s : State) :
    applyAttempt r s =
      { s with buf := (applyAttempt r s).buf, status := (applyAttempt r s).status
               need := (applyAttempt r s).need, pkt := (applyAttempt r s).pkt
               pt := { s.pt with valid := (applyAttempt r s).pt.valid } } := by
  cases h : r.packet with
  | none => rw [applyAttempt_none s h]
  | some p => rw [applyAttempt_some s h]

/-- Settles O46: a command changes nothing while FATAL = 1, and its own registers otherwise. -/
theorem writeMatrix : Obligations.WriteMatrix := by
  refine ⟨fun s t b h => ?_, fun s t h => ?_, fun s t b h => ?_, fun s t h => ?_, fun s t b h => ?_, fun s t h => ?_,
    fun s t h => ?_, fun s t i hf h => ?_⟩
  · obtain ⟨-, rfl⟩ | ⟨-, rfl⟩ := exec_cases h
    · rfl
    · exact pushByte_frame b s
  · obtain h | h := h <;> obtain ⟨-, rfl⟩ | ⟨-, rfl⟩ := exec_cases h
    · rfl
    · exact applyAttempt_frame _ s
    · rfl
    · exact applyAttempt_frame _ s
  · obtain ⟨-, rfl⟩ | ⟨-, rfl⟩ := exec_cases h
    · rfl
    · exact pointEffect_frame b.toNat s
  · obtain ⟨-, rfl⟩ | ⟨-, rfl⟩ := exec_cases h <;> rfl
  · obtain ⟨-, rfl⟩ | ⟨-, rfl⟩ := exec_cases h <;> rfl
  · obtain ⟨-, rfl⟩ | ⟨-, rfl⟩ := exec_cases h <;> rfl
  · obtain ⟨-, rfl⟩ | ⟨-, rfl⟩ := illegalResponse_cases h <;> rfl
  · obtain h | h := h
    · rw [exec_of_fatal i hf] at h
      exact (Host.Outcome.next.inj h).symm
    · rw [illegalResponse, guarded_of_fatal _ hf] at h
      exact (Host.Outcome.next.inj h).symm

/-! ### The ends of BUF (10_state.md R24, 20_memory.md R58) -/

theorem pushByte_buf (b : Byte) (s : State) : (pushByte b s).buf = s.buf ∨ (pushByte b s).buf = s.buf ++ [b] := by
  unfold pushByte
  split_ifs
  · exact .inl rfl
  · exact .inr rfl

theorem pointEffect_buf (i : Nat) (s : State) : (pointEffect i s).buf = s.buf := by rw [pointEffect_frame]

/-- An attempt leaves BUF or removes one noise byte or one candidate. -/
theorem attemptCore_rest (cfg : Config) (B : List Byte) :
    (attemptCore cfg B).rest = B ∨
    ∃ k, (attemptCore cfg B).rest = B.drop k ∧ k ≤ B.length ∧ (k = 1 ∨ k = hdrLen (byteAt B 1)) := by
  refine attemptCore_all (P := fun r => r.rest = B ∨
    ∃ k, r.rest = B.drop k ∧ k ≤ B.length ∧ (k = 1 ∨ k = hdrLen (byteAt B 1))) fun r hc => ?_
  cases hc with
  | header h => exact .inl rfl
  | noise h hi => exact .inr ⟨1, rfl, by omega, .inl rfl⟩
  | body h hi hl => exact .inl rfl
  | rejected h hi hl hf => exact .inr ⟨_, rfl, hl, .inr rfl⟩
  | packet h hi hl hf => exact .inr ⟨_, rfl, hl, .inr rfl⟩

/-- DRAIN only removes bytes at the front. -/
theorem drainCore_rest_eq_drop (cfg : Config) (k : Nat) (B : List Byte) :
    ∃ m, (drainCore cfg k B).rest = B.drop m ∧ m ≤ B.length := by
  obtain ⟨j, hj, hd⟩ := drainCore_is_attempt cfg k B
  obtain ⟨m, hm, hr⟩ := attemptCore_rest_eq_drop cfg (B.drop j)
  rw [List.length_drop] at hm
  exact ⟨j + m, by rw [hd, hr, List.drop_drop], by omega⟩

/-- Settles O48, command by command. -/
theorem bufferChangesOnlyAtEnds : Obligations.BufferChangesOnlyAtEnds := by
  intro i s t h
  obtain ⟨-, rfl⟩ | ⟨-, rfl⟩ := exec_cases h
  · exact .inl rfl
  cases i with
  | push b => exact (pushByte_buf b s).imp_right fun h => .inl ⟨b, rfl, h⟩
  | attempt =>
    rw [← hdrLen_eq, liveEffect, applyAttempt_buf]
    exact (attemptCore_rest s.cfg s.buf).imp_right fun h => .inr (.inl ⟨rfl, h⟩)
  | drain =>
    rw [liveEffect, applyAttempt_buf]
    exact .inr (.inr (.inr ⟨rfl, drainCore_rest_eq_drop _ _ _⟩))
  | point k => exact .inl (pointEffect_buf k.toNat s)
  | crcclr => exact .inl rfl
  | crcb b => exact .inl rfl
  | fail => exact .inl rfl

/-! ### The STATUS codes (30_encoding.md R85) -/

theorem pushByte_status (b : Byte) (s : State) : (pushByte b s).status = 0x5#4 ∨ (pushByte b s).status = 0x6#4 := by
  unfold pushByte
  split_ifs
  · exact .inr rfl
  · exact .inl rfl

theorem pointEffect_status (i : Nat) (s : State) :
    (pointEffect i s).status = 0x7#4 ∨ (pointEffect i s).status = 0x8#4 ∨ (pointEffect i s).status = 0x9#4 := by
  obtain ⟨-, h⟩ | ⟨-, -, h⟩ | ⟨-, -, h⟩ := pointEffect_cases i s <;> simp [h]

theorem outcomeCode_bits_cases (o : AttemptOutcome) :
    (outcomeCode o).bits = 0x1#4 ∨ (outcomeCode o).bits = 0x2#4 ∨ (outcomeCode o).bits = 0x3#4 ∨
      (outcomeCode o).bits = 0x4#4 := by
  cases o <;> decide

theorem outcomeCode_bits_of_settled {o : AttemptOutcome} (h : goesOn o = false) :
    (outcomeCode o).bits = 0x1#4 ∨ (outcomeCode o).bits = 0x4#4 := by
  revert h
  cases o <;> decide

/-- What a command that completes while FATAL = 0 answered. -/
theorem eq_liveEffect_of_exec {i : Instr} {s t : State} (hf : s.fatal = false) (h : exec i s = .next t) :
    t = liveEffect i s := by
  rw [exec_of_live i hf] at h
  exact (Host.Outcome.next.inj h).symm

/-- Settles O49: DRAIN ends settled, so of the attempt's four codes two are left. -/
theorem statusCodesByCommand : Obligations.StatusCodesByCommand := by
  intro s t hf
  refine ⟨fun b h => ?_, fun h => ?_, fun h => ?_, fun b h => ?_, fun h => ?_, fun b h => ?_, fun h => ?_, fun h => ?_⟩
  · exact eq_liveEffect_of_exec hf h ▸ pushByte_status b s
  · rw [eq_liveEffect_of_exec hf h, liveEffect, applyAttempt_status]
    exact outcomeCode_bits_cases _
  · rw [eq_liveEffect_of_exec hf h, liveEffect, applyAttempt_status]
    exact outcomeCode_bits_of_settled (drainCore_settled s.cfg _ s.buf le_rfl)
  · exact eq_liveEffect_of_exec hf h ▸ pointEffect_status b.toNat s
  · rw [eq_liveEffect_of_exec hf h]; rfl
  · rw [eq_liveEffect_of_exec hf h]; rfl
  · rw [eq_liveEffect_of_exec hf h]; rfl
  · rw [illegalResponse, guarded_of_live _ hf] at h
    exact Host.Outcome.next.inj h ▸ report_status .illegal s

/-! ### NEED (10_state.md R26) -/

/-- The amount is at least 1 for NEED_MORE and 0 for every other outcome. -/
theorem attemptCore_amount_pos_iff (cfg : Config) (B : List Byte) :
    1 ≤ (attemptCore cfg B).amount ↔ (attemptCore cfg B).outcome = .needMore := by
  refine attemptCore_all (P := fun r => 1 ≤ r.amount ↔ r.outcome = .needMore) fun r hc => ?_
  cases hc <;> simp <;> omega

theorem outcomeCode_bits_eq_needMore_iff {o : AttemptOutcome} : (outcomeCode o).bits = 0x1#4 ↔ o = .needMore := by
  cases o <;> decide

/-- NEED and STATUS after applying an attempt on B. -/
theorem applyAttempt_need_amount (s : State) (B : List Byte) {t : State}
    (ht : t = applyAttempt (attemptCore s.cfg B) s) :
    (t.status = 0x1#4 → 1 ≤ t.need.toNat ∧ t.need.toNat ≤ 102 ∧ t.need.toNat = (attemptCore t.cfg t.buf).amount) ∧
    (t.status ≠ 0x1#4 → t.need = 0#7) := by
  have hpos := attemptCore_amount_pos_iff s.cfg B
  subst ht
  simp only [applyAttempt_status, applyAttempt_need, applyAttempt_cfg, applyAttempt_buf,
    outcomeCode_bits_eq_needMore_iff, ofNat_attemptCore_amount, ne_eq]
  constructor
  · intro ho
    rw [(attemptCore_needMore ho).1]
    exact ⟨hpos.mpr ho, attemptCore_amount_le _ _, rfl⟩
  · intro ho
    have h0 : (attemptCore s.cfg B).amount = 0 := by have := mt hpos.mp ho; omega
    rw [h0]

theorem liveEffect_need {i : Instr} (hi : ¬ (i = .attempt ∨ i = .drain)) (s : State) :
    (liveEffect i s).need = s.need := by
  cases i with
  | push b => rw [liveEffect, pushByte_frame]
  | attempt => exact absurd (.inl rfl) hi
  | drain => exact absurd (.inr rfl) hi
  | point k => rw [liveEffect, pointEffect_frame]
  | crcclr => rfl
  | crcb b => rfl
  | fail => rfl

/-- Settles O50: ATTEMPT and DRAIN apply one attempt, and NEED_MORE leaves the buffer it looked at. -/
theorem needHoldsAmount : Obligations.NeedHoldsAmount := by
  refine ⟨fun s t hf h => ?_, fun i s t h hne => ?_⟩
  · obtain ⟨i, hi, hx⟩ : ∃ i : Instr, (i = .attempt ∨ i = .drain) ∧ exec i s = .next t :=
      h.elim (fun h => ⟨_, .inl rfl, h⟩) fun h => ⟨_, .inr rfl, h⟩
    obtain ⟨j, -, he⟩ := liveEffect_poll hi s
    exact applyAttempt_need_amount s (s.buf.drop j) ((eq_liveEffect_of_exec hf hx).trans he)
  · obtain ⟨-, rfl⟩ | ⟨-, rfl⟩ := exec_cases h
    · exact absurd rfl hne
    · exact by_contra fun hi => hne (liveEffect_need hi s)

/-! ### What no command reads (10_state.md R28, R33) -/

theorem applyAttempt_setCrcAcc (r : AttemptResult) (s : State) (c : Byte) :
    applyAttempt r { s with crcAcc := c } = { applyAttempt r s with crcAcc := c } := by
  cases h : r.packet with
  | none => rw [applyAttempt_none _ h, applyAttempt_none _ h]
  | some p => rw [applyAttempt_some _ h, applyAttempt_some _ h]

/-- ATTEMPT and DRAIN carry CRC_ACC through. -/
theorem exec_poll_setCrcAcc {i : Instr} (hi : i = .attempt ∨ i = .drain) {s t : State} (h : exec i s = .next t)
    (c : Byte) : exec i { s with crcAcc := c } = .next { t with crcAcc := c } := by
  obtain ⟨hf, rfl⟩ | ⟨hf, rfl⟩ := exec_cases h
  · exact exec_of_fatal i (s := { t with crcAcc := c }) hf
  · rw [exec_of_live i (s := { s with crcAcc := c }) hf]
    obtain rfl | rfl := hi <;> exact congrArg _ (applyAttempt_setCrcAcc _ s c)

/-- Settles O51, while FATAL = 1 too. -/
theorem framePathIgnoresCrcAcc : Obligations.FramePathIgnoresCrcAcc :=
  fun _ _ c => ⟨fun h => exec_poll_setCrcAcc (.inl rfl) h c, fun h => exec_poll_setCrcAcc (.inr rfl) h c⟩

theorem pushByte_overwrites (b : Byte) (s : State) (c : BitVec 4) (n : BitVec 7) :
    pushByte b { s with status := c, need := n } = { pushByte b s with need := n } := by
  unfold pushByte
  dsimp only
  split_ifs <;> rfl

theorem pointEffect_overwrites (i : Nat) (s : State) (c : BitVec 4) (n : BitVec 7) :
    pointEffect i { s with status := c, need := n } = { pointEffect i s with need := n } := by
  unfold pointEffect
  dsimp only
  split_ifs <;> rfl

/-- ATTEMPT and DRAIN overwrite STATUS and NEED; every other command overwrites STATUS and leaves NEED. -/
theorem liveEffect_overwrites (i : Instr) (s : State) (c : BitVec 4) (n : BitVec 7) :
    liveEffect i { s with status := c, need := n } =
      if i = .attempt ∨ i = .drain then liveEffect i s else { liveEffect i s with need := n } := by
  cases i with
  | push b => exact pushByte_overwrites b s c n
  | attempt => exact applyAttempt_overwrites _ s s.buf c n
  | drain => exact applyAttempt_overwrites _ s s.buf c n
  | point k => exact pointEffect_overwrites k.toNat s c n
  | crcclr => rfl
  | crcb b => rfl
  | fail => rfl

/-- Settles O52, by what each command overwrites. -/
theorem statusAndNeedAreNeverRead : Obligations.StatusAndNeedAreNeverRead := by
  intro i s t c n hf h
  obtain rfl := eq_liveEffect_of_exec hf h
  refine ⟨_, exec_of_live i (s := { s with status := c, need := n }) hf, ?_⟩
  rw [liveEffect_overwrites]
  split_ifs with hi
  · exact ⟨rfl, fun _ => rfl, .inl rfl⟩
  · exact ⟨rfl, fun h => absurd h hi, .inr rfl⟩

/-! ### The result port (10_state.md R24, R35) -/

/-- A register is shown as the number of its bits, which gives the bits back. -/
theorem bits_eq_of_shown {w : Nat} {a b : BitVec w} (h : some a.toNat = some b.toNat) : a = b :=
  BitVec.eq_of_toNat_eq (Option.some.inj h)

theorem bit_eq_of_shown {a b : Bool} (h : some a.toNat = some b.toNat) : a = b := by
  revert a b
  decide

section
variable {s u : State} (h : ∀ r : ResultReg, readResult s r = readResult u r)
include h

theorem buf_eq_of_readResult : s.buf = u.buf :=
  List.ext_getElem? fun k =>
    Option.map_injective (fun _ _ => BitVec.eq_of_toNat_eq) (h (.bufByte k))

theorem pkt_eq_of_readResult : s.pkt = u.pkt := by
  have hdist : s.pkt.dist = u.pkt.dist := Vector.ext fun k hk => bits_eq_of_shown (h (.pktDist ⟨k, hk⟩))
  have hconf : s.pkt.conf = u.pkt.conf := Vector.ext fun k hk => bits_eq_of_shown (h (.pktConf ⟨k, hk⟩))
  exact (PktRegs.mk.injEq ..).mpr
    ⟨bit_eq_of_shown (h .pktValid), bits_eq_of_shown (h .pktVer), bits_eq_of_shown (h .pktN),
      bits_eq_of_shown (h .pktSpeed), bits_eq_of_shown (h .pktStart), hdist, hconf, bits_eq_of_shown (h .pktEnd),
      bits_eq_of_shown (h .pktTs), bits_eq_of_shown (h .pktCrc)⟩

theorem pt_eq_of_readResult : s.pt = u.pt :=
  (PtRegs.mk.injEq ..).mpr
    ⟨bit_eq_of_shown (h .ptValid), bits_eq_of_shown (h .ptIdx), bits_eq_of_shown (h .ptSpan),
      bits_eq_of_shown (h .ptNum), bits_eq_of_shown (h .ptDen), bits_eq_of_shown (h .ptDist),
      bits_eq_of_shown (h .ptConf)⟩

end

/-- Settles O53, register by register. -/
theorem resultPortShowsAllState : Obligations.ResultPortShowsAllState :=
  fun _ _ hcfg hport h => (State.mk.injEq ..).mpr
    ⟨hcfg, hport, buf_eq_of_readResult h, bits_eq_of_shown (h .status), bits_eq_of_shown (h .need),
      bit_eq_of_shown (h .fatal), bits_eq_of_shown (h .crcAcc), pkt_eq_of_readResult h, pt_eq_of_readResult h⟩

/-! ### The reset values (10_state.md R37) -/

/-- Settles O11: the reset state of any parameters has the gathered values, slot by slot. -/
theorem resetStateValues : Obligations.ResetStateValues := by
  intro s hs
  obtain ⟨c, rfl⟩ : ∃ c, s = State.resetWith c := hs.elim (fun h => ⟨defaultConfig, h⟩) id
  have hslot (k : Fin 31) : PktRegs.zero.dist[k] = 0#16 ∧ PktRegs.zero.conf[k] = 0#8 := by simp [PktRegs.zero]
  exact ⟨rfl, rfl, rfl, rfl, rfl, rfl, rfl, rfl, rfl, rfl, hslot, rfl, rfl, rfl, rfl, rfl, rfl, rfl, rfl, rfl, rfl⟩

end Sys2Proof.Machine

/-! The stream as the pieces its attempts remove, and a FEED line as the bytes its PUSHes append. -/

namespace Sys2Proof.Machine

/-! ### The pieces of a stream (20_memory.md R63, 41_synchronizer.md R137) -/

/-- What one attempt removes, with the packet it gives: a noise byte, or a whole candidate decoded when it passes its
check. -/
def IsPiece (cfg : Config) (x : List Byte × Option Packet) : Prop :=
  (x.1.length = 1 ∧ byteAt x.1 0 ≠ cfg.headerIndicator ∧ x.2 = none) ∨
  (byteAt x.1 0 = cfg.headerIndicator ∧ x.1.length = hdrLen (byteAt x.1 1) ∧
    x.2 = if frameOk cfg x.1 then some (decodeFrame x.1) else none)

theorem isPiece_noise {cfg : Config} {B : List Byte} (h : 2 ≤ B.length) (hi : byteAt B 0 ≠ cfg.headerIndicator) :
    IsPiece cfg (B.take 1, none) := by
  refine .inl ⟨?_, ?_, rfl⟩
  · rw [List.length_take]; omega
  · rwa [byteAt_take Nat.zero_lt_one]

theorem isPiece_candidate {cfg : Config} {B : List Byte} {p : Option Packet}
    (hi : byteAt B 0 = cfg.headerIndicator) (hl : hdrLen (byteAt B 1) ≤ B.length)
    (hp : p = if frameOk cfg (B.take (hdrLen (byteAt B 1))) then some (decodeFrame (B.take (hdrLen (byteAt B 1))))
      else none) :
    IsPiece cfg (B.take (hdrLen (byteAt B 1)), p) := by
  obtain ⟨hL, -⟩ := hdrLen_bounds (byteAt B 1)
  refine .inr ⟨?_, ?_, hp⟩
  · rwa [byteAt_take (by omega)]
  · rw [byteAt_take (by omega), List.length_take]; omega

/-- An attempt that does not ask for more bytes removes one piece, whose packet is the one it gives. -/
theorem attemptCore_removes_piece {cfg : Config} {B : List Byte} (h : (attemptCore cfg B).outcome ≠ .needMore) :
    ∃ f, B = f ++ (attemptCore cfg B).rest ∧ IsPiece cfg (f, (attemptCore cfg B).packet) := by
  revert h
  refine attemptCore_all (P := fun r => r.outcome ≠ .needMore → ∃ f, B = f ++ r.rest ∧ IsPiece cfg (f, r.packet))
    fun r hc hne => ?_
  cases hc with
  | header => exact absurd rfl hne
  | noise h hi => exact ⟨B.take 1, (List.take_append_drop 1 B).symm, isPiece_noise h hi⟩
  | body => exact absurd rfl hne
  | rejected h hi hl hf => exact ⟨_, (List.take_append_drop _ B).symm, isPiece_candidate hi hl (by simp [hf])⟩
  | packet h hi hl hf => exact ⟨_, (List.take_append_drop _ B).symm, isPiece_candidate hi hl (by simp [hf])⟩

theorem streamRun_of_needMore {cfg : Config} {B : List Byte} (h : (attemptCore cfg B).outcome = .needMore) (k : Nat) :
    streamRun cfg (k + 1) B = ([], B) := by
  simp [streamRun, h, (attemptCore_needMore h).1]

theorem streamRun_of_decided {cfg : Config} {B : List Byte} (h : (attemptCore cfg B).outcome ≠ .needMore) (k : Nat) :
    streamRun cfg (k + 1) B =
      ((attemptCore cfg B).packet.toList ++ (streamRun cfg k (attemptCore cfg B).rest).1,
        (streamRun cfg k (attemptCore cfg B).rest).2) := by
  simp [streamRun, h]

/-- With fuel above len(B), the attempts on B take it apart into pieces and leave a buffer that needs more. -/
theorem streamRun_splits {cfg : Config} {k : Nat} {B : List Byte} (hk : B.length < k) :
    ∃ pieces : List (List Byte × Option Packet),
      B = pieces.flatMap Prod.fst ++ (streamRun cfg k B).2 ∧
      (streamRun cfg k B).1 = pieces.filterMap Prod.snd ∧
      (attemptCore cfg (streamRun cfg k B).2).outcome = .needMore ∧
      ∀ x ∈ pieces, IsPiece cfg x := by
  induction k generalizing B with
  | zero => omega
  | succ k ih =>
    by_cases h : (attemptCore cfg B).outcome = .needMore
    · rw [streamRun_of_needMore h]
      exact ⟨[], rfl, rfl, h, by simp⟩
    · rw [streamRun_of_decided h]
      have hlt := attemptCore_rest_lt h
      obtain ⟨f, hB, hf⟩ := attemptCore_removes_piece h
      obtain ⟨pieces, hrest, hpackets, hneed, hall⟩ := ih (B := (attemptCore cfg B).rest) (by omega)
      refine ⟨(f, (attemptCore cfg B).packet) :: pieces, ?_, ?_, hneed, List.forall_mem_cons.mpr ⟨hf, hall⟩⟩
      · rw [List.flatMap_cons, List.append_assoc, ← hrest]
        exact hB
      · rw [hpackets]
        cases hp : (attemptCore cfg B).packet <;> simp

/-- Settles O26: the pieces are what the attempts of the stream remove, one each. -/
theorem streamSplitsIntoFrames : Obligations.StreamSplitsIntoFrames := by
  intro cfg S
  obtain ⟨pieces, hS, hpackets, hneed, hall⟩ := streamRun_splits (cfg := cfg) (Nat.lt_succ_self S.length)
  refine ⟨pieces, hS, hpackets, hneed, fun x hx => ?_⟩
  rw [← hdrLen_eq]
  exact hall x hx

/-! ### A FEED line on the command port (30_encoding.md R87, 20_memory.md R62) -/

theorem decode_encode_push (b : Byte) : decode (encode (.push b)) = .ok (.push b) := by
  revert b; decide

theorem assembleLine_feed {bs : List Byte} (h : bs ≠ []) :
    assembleLine (.feed (bs.map BitVec.toNat)) = .ok (bs.map fun b => encode (.push b)) := by
  have hwf : (AsmLine.feed (bs.map BitVec.toNat)).wf = true := by
    simp [AsmLine.wf, h, fun b : Byte => Nat.le_of_lt_succ b.isLt]
  have hwords : (expandLine (.feed (bs.map BitVec.toNat))).filterMap lineWord = bs.map fun b => encode (.push b) := by
    simp [expandLine, List.filterMap_map, Function.comp_def, lineWord]
  rw [assembleLine, if_pos hwf, hwords]

/-- A run goes on from the state its first step answers. -/
theorem run_succ_of_step {s t : State} (h : step s = .next t) (k : Nat) : core.run (k + 1) s = core.run k t := by
  have h : core.step s = .next t := h
  simp only [Host.Core.run, h]

theorem step_push_of_room {s : State} {b : Byte} {rest : List PortEvent} (hf : s.fatal = false)
    (hp : s.port = .word (encode (.push b)) :: rest) (hl : s.buf.length ≠ s.cfg.bufCapacity) :
    step s = .next { s with port := rest, buf := s.buf ++ [b], status := 0x5#4 } :=
  calc step s = execWord (encode (.push b)) (s.setPort rest) := step_of_cons hp
    _ = execPush b (s.setPort rest) := execWord_of_ok (decode_encode_push b) _
    _ = _ := execPush_of_room b hf hl

/-- PUSH words on the port, run one step each, append their bytes in order; what comes after them stays there. With
no byte there is no step, and STATUS stays. -/
theorem run_push_words {s : State} {bs : List Byte} {rest : List PortEvent} (hf : s.fatal = false)
    (hl : s.buf.length + bs.length ≤ s.cfg.bufCapacity)
    (hp : s.port = bs.map (fun b => .word (encode (.push b))) ++ rest) :
    core.run bs.length s =
      .next { s with port := rest, buf := s.buf ++ bs, status := if bs = [] then s.status else 0x5#4 } := by
  induction bs generalizing s with
  | nil =>
    obtain rfl : s.port = rest := hp
    simp [Host.Core.run]
  | cons b bs ih =>
    rw [List.length_cons] at hl
    have hroom : s.buf.length ≠ s.cfg.bufCapacity := by omega
    have hl' : (s.buf ++ [b]).length + bs.length ≤ s.cfg.bufCapacity := by
      rw [List.length_append, List.length_singleton]; omega
    have hrun := ih (s := { s with port := bs.map (fun b => .word (encode (.push b))) ++ rest,
                                   buf := s.buf ++ [b], status := 0x5#4 }) hf hl' rfl
    refine (run_succ_of_step (step_push_of_room hf hp hroom) bs.length).trans (hrun.trans ?_)
    simp

/-- Settles O57: the words of the line are those of its PUSHes. -/
theorem feedProgramFillsBuffer : Obligations.FeedProgramFillsBuffer := by
  intro s bs ws hf hne hl hasm hport
  rw [assembleLine_feed hne] at hasm
  obtain rfl := Except.ok.inj hasm
  have hp : s.port = bs.map (fun b => .word (encode (.push b))) ++ [] := by simp [hport]
  rw [run_push_words hf hl hp, if_neg hne]

end Sys2Proof.Machine

/-! The command-word encoding, taken apart by the fields of a word: the decoder and the encoder are inverse, which words are
commands and how many, and the expansions of the pseudo-commands. -/

namespace Sys2Proof.Machine

/-! ### The fields of a word (30_encoding.md R80) -/

theorem packWord_toNat (op : BitVec 4) (b : Byte) : (packWord op b).toNat = op.toNat * 4096 + b.toNat := by
  have hb := b.isLt
  simp only [packWord, BitVec.toNat_append, BitVec.toNat_ofNat, Nat.zero_mod, Nat.or_zero, ← Nat.shiftLeft_add]
  rw [← Nat.shiftLeft_add_eq_or_of_lt (by omega), Nat.shiftLeft_eq]

theorem opField_toNat (w : CmdWord) : (opField w).toNat = w.toNat / 4096 := by
  have hw := w.isLt
  rw [opField, BitVec.extractLsb'_toNat, Nat.shiftRight_eq_div_pow]
  omega

theorem zField_toNat (w : CmdWord) : (zField w).toNat = w.toNat / 256 % 16 := by
  rw [zField, BitVec.extractLsb'_toNat, Nat.shiftRight_eq_div_pow]

theorem immField_toNat (w : CmdWord) : (immField w).toNat = w.toNat % 256 := by
  rw [immField, BitVec.extractLsb'_toNat, Nat.shiftRight_zero]

theorem packWord_eq_iff {op : BitVec 4} {b : Byte} {w : CmdWord} :
    packWord op b = w ↔ opField w = op ∧ zField w = 0#4 ∧ immField w = b := by
  have hb := b.isLt
  simp only [BitVec.toNat_eq, packWord_toNat, opField_toNat, zField_toNat, immField_toNat, BitVec.toNat_ofNat]
  omega

@[simp] theorem immField_packWord (op : BitVec 4) (b : Byte) : immField (packWord op b) = b := by
  obtain ⟨-, -, himm⟩ := packWord_eq_iff.mp (Eq.refl (packWord op b))
  exact himm

theorem and_highByte_toNat (w : CmdWord) : (w &&& 0xFF00#16).toNat = w.toNat / 256 * 256 := by
  have hw := w.isLt
  have hshift : w &&& 0xFF00#16 = w >>> 8 <<< 8 :=
    (BitVec.shiftLeft_ushiftRight (x := w) (n := 8)).symm
  rw [hshift, BitVec.toNat_shiftLeft, BitVec.toNat_ushiftRight, Nat.shiftRight_eq_div_pow, Nat.shiftLeft_eq]
  omega

/-- The test of a row with an operand fixes every bit of the word but its `imm8`. -/
theorem and_highByte_eq_iff {op : BitVec 4} {w : CmdWord} :
    w &&& 0xFF00#16 = packWord op 0#8 ↔ packWord op (immField w) = w := by
  simp only [BitVec.toNat_eq, packWord_toNat, and_highByte_toNat, immField_toNat, BitVec.toNat_ofNat]
  omega

theorem and_allBits (w : CmdWord) : w &&& 0xFFFF#16 = w := BitVec.and_allOnes

/-! ### Decoder and encoder are inverse (30_encoding.md R81, R83, R84) -/

theorem rowMatch (i : Instr) : Laws.RowMatch.Statement i := by
  cases i with
  | push b => exact Laws.RowMatch.push b
  | attempt => exact Laws.RowMatch.attempt
  | drain => exact Laws.RowMatch.drain
  | point i => exact Laws.RowMatch.point i
  | crcclr => exact Laws.RowMatch.crcclr
  | crcb b => exact Laws.RowMatch.crcb b
  | fail => exact Laws.RowMatch.fail

/-- The decoder tests the rows of the operation map in turn, and a command's word passes the test of its own row only. -/
theorem decode_encode (i : Instr) : decode (encode i) = .ok i := by
  have hrow := rowMatch i
  simp only [Laws.RowMatch.Statement, opTable, List.forall_mem_cons, BitVec.ofNat_eq_ofNat, and_allBits] at hrow
  obtain ⟨hpush, hattempt, hdrain, hpoint, hcrcclr, hcrcb, hfail, -⟩ := hrow
  simp only [decode, hpush, hattempt, hdrain, hpoint, hcrcclr, hcrcb, hfail]
  cases i <;> simp [mnemonicOf, encode]

/-- Each accepting branch of the decoder has tested every bit of the word but the operand it keeps. -/
theorem encode_of_decode {w : CmdWord} {i : Instr} (h : decode w = .ok i) : encode i = w := by
  unfold decode at h
  split_ifs at h with hpush hattempt hdrain hpoint hcrcclr hcrcb hfail <;>
    obtain rfl := Except.ok.inj h
  exacts [and_highByte_eq_iff.mp hpush, hattempt.symm, hdrain.symm, and_highByte_eq_iff.mp hpoint, hcrcclr.symm,
    and_highByte_eq_iff.mp hcrcb, hfail.symm]

theorem decode_eq_ok_iff {w : CmdWord} {i : Instr} : decode w = .ok i ↔ encode i = w :=
  ⟨encode_of_decode, fun h => h ▸ decode_encode i⟩

theorem encode_injective : Function.Injective encode := fun i j h =>
  Except.ok.inj ((decode_encode i).symm.trans (h ▸ decode_encode j))

/-! ### The operation map (30_encoding.md R81) -/

theorem exists_packWord_eq_iff {op : BitVec 4} {w : CmdWord} :
    (∃ b, packWord op b = w) ↔ w &&& 0xFF00#16 = packWord op 0#8 := by
  rw [and_highByte_eq_iff]
  constructor
  · rintro ⟨b, rfl⟩
    rw [immField_packWord]
  · exact fun h => ⟨immField w, h⟩

theorem exists_encode_of_row {w : CmdWord} {r : OpRow} (hr : r ∈ opTable) (h : w &&& r.maskBits = r.matchBits) :
    ∃ i, encode i = w := by
  simp only [opTable, List.mem_cons, List.not_mem_nil, or_false] at hr
  obtain rfl | rfl | rfl | rfl | rfl | rfl | rfl := hr
  · exact ⟨.push _, and_highByte_eq_iff.mp h⟩
  · exact ⟨.attempt, h.symm.trans (and_allBits w)⟩
  · exact ⟨.drain, h.symm.trans (and_allBits w)⟩
  · exact ⟨.point _, and_highByte_eq_iff.mp h⟩
  · exact ⟨.crcclr, h.symm.trans (and_allBits w)⟩
  · exact ⟨.crcb _, and_highByte_eq_iff.mp h⟩
  · exact ⟨.fail, h.symm.trans (and_allBits w)⟩

theorem row_eq_of_mnemonic_eq : ∀ r ∈ opTable, ∀ r' ∈ opTable, r.mnemonic = r'.mnemonic → r = r' := by
  decide

/-- Two rows that one word matches are both the row of the command whose word it is. -/
theorem row_unique {w : CmdWord} {r r' : OpRow} (hr : r ∈ opTable) (hr' : r' ∈ opTable)
    (h : w &&& r.maskBits = r.matchBits) (h' : w &&& r'.maskBits = r'.matchBits) : r = r' := by
  obtain ⟨i, rfl⟩ := exists_encode_of_row hr h
  exact row_eq_of_mnemonic_eq r hr r' hr'
    (((rowMatch i r hr).mp h).trans ((rowMatch i r' hr').mp h').symm)

theorem packWord_setWidth (op : BitVec 4) (b : Byte) : (packWord op b).setWidth 8 = b := by
  have himm := immField_packWord op b
  rwa [immField, ← BitVec.setWidth_eq_extractLsb' (by omega)] at himm

/-! ### The illegal words (30_encoding.md R83, R84) -/

/-- The commands by their fields: `z` is 0, and `op` is that of a command with an operand, or of one without and `imm8`
is 0. -/
theorem exists_decode_ok_iff {w : CmdWord} :
    (∃ i, decode w = .ok i) ↔
      zField w = 0#4 ∧ (opField w ∈ [1#4, 4#4, 6#4] ∨ opField w ∈ [2#4, 3#4, 5#4, 7#4] ∧ immField w = 0#8) := by
  simp only [decode_eq_ok_iff, List.mem_cons, List.not_mem_nil, or_false]
  constructor
  · rintro ⟨i, h⟩
    cases i <;>
      (obtain ⟨hop, hz, himm⟩ := packWord_eq_iff.mp h
       simp [hop, hz, himm])
  · rintro ⟨hz, (hop | hop | hop) | ⟨hop | hop | hop | hop, himm⟩⟩
    · exact ⟨.push (immField w), packWord_eq_iff.mpr ⟨hop, hz, rfl⟩⟩
    · exact ⟨.point (immField w), packWord_eq_iff.mpr ⟨hop, hz, rfl⟩⟩
    · exact ⟨.crcb (immField w), packWord_eq_iff.mpr ⟨hop, hz, rfl⟩⟩
    · exact ⟨.attempt, packWord_eq_iff.mpr ⟨hop, hz, himm⟩⟩
    · exact ⟨.drain, packWord_eq_iff.mpr ⟨hop, hz, himm⟩⟩
    · exact ⟨.crcclr, packWord_eq_iff.mpr ⟨hop, hz, himm⟩⟩
    · exact ⟨.fail, packWord_eq_iff.mpr ⟨hop, hz, himm⟩⟩

theorem exists_decode_error_iff {w : CmdWord} : (∃ r, decode w = .error r) ↔ ¬ ∃ i, decode w = .ok i := by
  cases decode w <;> simp

theorem ushiftRight_12_toNat (w : CmdWord) : (w >>> 12).toNat = (opField w).toNat := by
  rw [opField_toNat, BitVec.toNat_ushiftRight, Nat.shiftRight_eq_div_pow]

theorem ushiftRight_8_and_toNat (w : CmdWord) : ((w >>> 8) &&& 0xF#16).toNat = (zField w).toNat := by
  rw [zField_toNat, BitVec.toNat_and, BitVec.toNat_ushiftRight, Nat.shiftRight_eq_div_pow]
  exact Nat.and_two_pow_sub_one_eq_mod _ 4

theorem and_lowByte_toNat (w : CmdWord) : (w &&& 0xFF#16).toNat = (immField w).toNat := by
  rw [immField_toNat, BitVec.toNat_and]
  exact Nat.and_two_pow_sub_one_eq_mod _ 8

/-! ### The number of commands (30_encoding.md R84) -/

def allBytes : List Byte := (List.finRange 256).map BitVec.ofFin

theorem mem_allBytes (b : Byte) : b ∈ allBytes :=
  List.mem_map.mpr ⟨b.toFin, List.mem_finRange _, rfl⟩

theorem allBytes_nodup : allBytes.Nodup :=
  (List.nodup_finRange 256).map fun _ _ h => congrArg BitVec.toFin h

theorem allBytes_length : allBytes.length = 256 := by
  rw [allBytes, List.length_map, List.length_finRange]

/-- Every command once: the four without an operand, and three for each byte. -/
def allCommands : List Instr :=
  [.attempt, .drain, .crcclr, .fail] ++ (allBytes.map .push ++ (allBytes.map .point ++ allBytes.map .crcb))

theorem mem_allCommands (i : Instr) : i ∈ allCommands := by
  cases i <;> simp [allCommands, mem_allBytes]

theorem allCommands_nodup : allCommands.Nodup := by
  have hpush := allBytes_nodup.map fun _ _ => Instr.push.inj
  have hpoint := allBytes_nodup.map fun _ _ => Instr.point.inj
  have hcrcb := allBytes_nodup.map fun _ _ => Instr.crcb.inj
  simp [allCommands, List.nodup_append, hpush, hpoint, hcrcb, or_imp, forall_and]

theorem allCommands_length : allCommands.length = 772 := by
  simp [allCommands, allBytes_length]

/-! ### Assembly (30_encoding.md R86, R87) -/

theorem assembleLine_of_wf {l : AsmLine} (h : l.wf = true) :
    assembleLine l = .ok ((expandLine l).filterMap lineWord) := if_pos h

theorem assembleLine_of_not_wf {l : AsmLine} (h : l.wf = false) : assembleLine l = .error .operandRange := by
  simp [assembleLine, h]

theorem assembleLine_crcseq {bs : List Byte} (h : bs ≠ []) :
    assembleLine (.crcseq (bs.map BitVec.toNat)) = .ok (encode .crcclr :: bs.map fun b => encode (.crcb b)) := by
  have hwf : (AsmLine.crcseq (bs.map BitVec.toNat)).wf = true := by
    simp [AsmLine.wf, h, fun b : Byte => Nat.le_of_lt_succ b.isLt]
  rw [assembleLine_of_wf hwf]
  simp [expandLine, List.filterMap_map, Function.comp_def, lineWord]

theorem assembleLine_points {n : Nat} (h : n ≤ 256) :
    assembleLine (.points n) = .ok ((List.range n).map fun i => encode (.point (BitVec.ofNat 8 i))) := by
  have hwf : (AsmLine.points n).wf = true := decide_eq_true h
  rw [assembleLine_of_wf hwf]
  simp [expandLine, List.filterMap_map, Function.comp_def, lineWord]

/-! ### The obligations -/

/-- Settles O1: of the rows the decoder tests, a command's word passes its own only. -/
theorem decodeEncodeIdentity : Obligations.DecodeEncodeIdentity :=
  fun i _ => decode_encode i

/-- Settles O2: the branch that accepts a word has tested every bit outside the operand. -/
theorem encodeDecodeIdentity : Obligations.EncodeDecodeIdentity :=
  fun _ _ => encode_of_decode

/-- Settles O3: decoding to a command is being its word, so each row speaks of the packed words of one `op`. -/
theorem decodeFollowsOperationMap : Obligations.DecodeFollowsOperationMap := by
  intro w
  simp only [decode_eq_ok_iff, and_allBits]
  refine ⟨exists_packWord_eq_iff, eq_comm, eq_comm, exists_packWord_eq_iff, eq_comm, exists_packWord_eq_iff, eq_comm,
    ?_, fun r hr r' hr' => row_unique hr hr'⟩
  rintro b (rfl | rfl | rfl) <;> exact (packWord_setWidth _ b).symm

/-- Settles O4: the illegal words are what the commands' fields leave. -/
theorem illegalWordsByField : Obligations.IllegalWordsByField := by
  intro w
  constructor
  · rw [exists_decode_error_iff, exists_decode_ok_iff]
    simp only [BitVec.toNat_eq, ne_eq, ushiftRight_12_toNat, ushiftRight_8_and_toNat, and_lowByte_toNat,
      List.mem_cons, List.not_mem_nil, or_false, BitVec.ofNat_eq_ofNat, BitVec.toNat_ofNat]
    have hop := (opField w).isLt
    omega
  · rintro ⟨r, hr⟩ s
    exact execWord_of_error hr s

/-- Settles O5: the words of all commands, which differ because decoding tells the commands apart. -/
theorem legalWordCount : Obligations.LegalWordCount := by
  refine ⟨allCommands.map encode, allCommands_nodup.map encode_injective, ?_, fun w => ?_⟩
  · rw [List.length_map, allCommands_length]
  · simp only [List.mem_map, mem_allCommands, true_and, decode_eq_ok_iff]

/-- Settles O6: the legal words are the encodings of their commands; each illegal one meets one clause of R83. -/
theorem sampleWordsDecode : Obligations.SampleWordsDecode :=
  ⟨decode_encode (.push 0x54#8), decode_encode .attempt, decode_encode .drain, decode_encode (.point 255#8),
    decode_encode .crcclr, decode_encode (.crcb 0#8), decode_encode .fail, by decide, by decide, by decide, by decide⟩

/-- Settles O56: each line is expanded when its operands are in range and refused when one is above 255. -/
theorem pseudoCommandsExpand : Obligations.PseudoCommandsExpand := by
  refine ⟨fun bs h => ⟨assembleLine_feed h, assembleLine_crcseq h⟩, fun n h => assembleLine_points h, fun b h => ?_⟩
  have hb : decide (b ≤ 255) = false := decide_eq_false (by omega)
  exact ⟨assembleLine_of_not_wf hb, assembleLine_of_not_wf hb, assembleLine_of_not_wf hb⟩

end Sys2Proof.Machine

/-! The checksum unit and the frame check: both fold the table step over the bytes, and under the default table the fold
tells any two sequences apart that differ in one byte. -/

namespace Sys2Proof.Machine

/-! ### CRCCLR, CRCB and their words (40_checksum.md R104, R105) -/

theorem packWord_eq_or (op : BitVec 4) (b : Byte) : packWord op b = packWord op 0#8 ||| b.zeroExtend 16 := by
  simp only [packWord, BitVec.append_def]
  ext i hi
  simp

/-- Settles O32. -/
theorem crcclrClears : Obligations.CrcclrClears :=
  ⟨rfl, fun _ => ⟨exec_of_fatal .crcclr, execCrcclr_of_live⟩⟩

/-- Settles O33: the table step is the lookup at CRC_ACC XOR b. -/
theorem crcbLooksTableUp : Obligations.CrcbLooksTableUp :=
  fun _ b => ⟨packWord_eq_or 6#4 b, exec_of_fatal (.crcb b), execCrcb_of_live b⟩

/-! ### A list of commands issued to the unit (40_checksum.md R105) -/

theorem issue_of_live (i : Instr) {s : State} (h : s.fatal = false) : issue i s = liveEffect i s := by
  rw [issue, exec_of_live i h]

/-- CRCB for each byte folds the bytes into CRC_ACC. STATUS is CRC_OK from the start, for with no byte
nothing is reported. -/
theorem issueAll_map_crcb {s : State} (h : s.fatal = false) (c : Byte) (f : List Byte) :
    issueAll (f.map .crcb) { s with crcAcc := c, status := 0xA#4 } =
      { s with crcAcc := crcFold s.cfg c f, status := 0xA#4 } := by
  induction f generalizing c with
  | nil => rfl
  | cons b f ih =>
    rw [List.map_cons, issueAll, issue_of_live (s := { s with crcAcc := c, status := 0xA#4 }) (.crcb b) h]
    exact ih (crcStep s.cfg c b)

theorem issueAll_crcclr_crcb {s : State} (h : s.fatal = false) (f : List Byte) :
    issueAll (.crcclr :: f.map .crcb) s = { s with crcAcc := crc8 s.cfg f, status := 0xA#4 } := by
  rw [issueAll, issue_of_live .crcclr h]
  exact issueAll_map_crcb h 0x00#8 f

/-- Settles O34: the commands fold the bytes from 0, and the fold takes its last byte last. -/
theorem crcUnitComputesCrc8 : Obligations.CrcUnitComputesCrc8 :=
  fun s f h => ⟨issueAll_crcclr_crcb h f, rfl, crc8_append_singleton s.cfg f⟩

/-! ### The default table (40_checksum.md R100) -/

/-- Settles O31, entry by entry. -/
theorem defaultTableIsCrc4D : Obligations.DefaultTableIsCrc4D := by
  unfold Obligations.DefaultTableIsCrc4D
  decide +kernel

section
variable {cfg : Config} (htab : cfg.crcTable = crcTableDefault)
include htab

theorem crcStep_of_default (c b : Byte) : crcStep cfg c b = crcShift8 (c ^^^ b) := by
  rw [crcStep, htab]
  exact defaultTableIsCrc4D (c ^^^ b).toFin

theorem crcStep_left_injective (b : Byte) : Function.Injective (crcStep cfg · b) := by
  intro c d h
  simp only [crcStep_of_default htab] at h
  exact (BitVec.xor_left_inj b).mp (crcShift8_injective h)

theorem crcStep_right_injective (c : Byte) : Function.Injective (crcStep cfg c) := by
  intro a b h
  simp only [crcStep_of_default htab] at h
  exact (BitVec.xor_right_inj c).mp (crcShift8_injective h)

theorem crcFold_injective (f : List Byte) : Function.Injective (crcFold cfg · f) := by
  induction f with
  | nil => exact Function.injective_id
  | cons b f ih => exact ih.comp (crcStep_left_injective htab b)

/-- A change of one byte changes the checksum: its step differs, and no later step makes up for it (R107). -/
theorem crc8_set_ne {f : List Byte} {k : Nat} {b : Byte} (hk : k < f.length) (hb : b ≠ byteAt f k) :
    crc8 cfg (f.set k b) ≠ crc8 cfg f := by
  have hf : f = f.take k ++ byteAt f k :: f.drop (k + 1) := by
    rw [byteAt_of_lt hk, List.getElem_cons_drop, List.take_append_drop]
  have hset : f.set k b = f.take k ++ b :: f.drop (k + 1) := by
    rw [List.set_eq_take_append_cons_drop, if_pos hk]
  intro h
  rw [hset] at h
  conv_rhs at h => rw [hf]
  simp only [crc8, crcFold_append, crcFold_cons] at h
  exact hb (crcStep_right_injective htab _ (crcFold_injective htab _ h))

end

/-! ### The frame check as the checksum of the whole frame (40_checksum.md R103, R105) -/

/-- The last byte is folded in on top of the checksum of the others. -/
theorem crc8_eq_crcStep_last (cfg : Config) {f : List Byte} (hne : f ≠ []) :
    crc8 cfg f = crcStep cfg (crc8 cfg (f.take (f.length - 1))) (byteAt f (f.length - 1)) := by
  conv_lhs => rw [frame_split hne, crc8_append_singleton]

theorem crcStep_self (cfg : Config) (c : Byte) : crcStep cfg c c = cfg.crcTable[0] := by
  simp [crcStep]

theorem crc8_of_frameOk {cfg : Config} {f : List Byte} (hne : f ≠ []) (h : frameOk cfg f = true) :
    crc8 cfg f = cfg.crcTable[0] := by
  rw [crc8_eq_crcStep_last cfg hne, (frameOk_iff cfg f).mp h, crcStep_self]

/-- Where the table is the default one, no other last byte leads to its entry 0. -/
theorem frameOk_of_crc8 {cfg : Config} {f : List Byte} (htab : cfg.crcTable = crcTableDefault) (hne : f ≠ [])
    (h : crc8 cfg f = cfg.crcTable[0]) : frameOk cfg f = true := by
  rw [crc8_eq_crcStep_last cfg hne, ← crcStep_self cfg (byteAt f (f.length - 1))] at h
  exact (frameOk_iff cfg f).mpr (crcStep_left_injective htab _ h)

/-- Settles O35: CRC_ACC ends at the checksum of the whole frame. -/
theorem crcUnitChecksFrame : Obligations.CrcUnitChecksFrame := by
  intro s f hf hne
  rw [issueAll_crcclr_crcb hf]
  exact ⟨crc8_of_frameOk hne, fun htab => frameOk_of_crc8 htab hne⟩

/-- A valid frame with one byte changed is not valid. -/
theorem frameOk_set_eq_false {cfg : Config} (htab : cfg.crcTable = crcTableDefault) {f : List Byte}
    (hok : frameOk cfg f = true) {k : Nat} (hk : k < f.length) {b : Byte} (hb : b ≠ byteAt f k) :
    frameOk cfg (f.set k b) = false := by
  have hne : f ≠ [] := List.ne_nil_of_length_pos (by omega)
  have hne' : f.set k b ≠ [] := by simpa using hne
  rw [← Bool.not_eq_true]
  exact fun h => crc8_set_ne htab hk hb ((crc8_of_frameOk hne' h).trans (crc8_of_frameOk hne hok).symm)

/-! ### One bit changed in a frame first in BUF (40_checksum.md R107) -/

theorem byteAt_set_self {f : List Byte} {k : Nat} (hk : k < f.length) (b : Byte) : byteAt (f.set k b) k = b := by
  simp [byteAt, hk]

theorem byteAt_set_of_ne {f : List Byte} {k m : Nat} (h : k ≠ m) (b : Byte) :
    byteAt (f.set k b) m = byteAt f m := by
  simp [byteAt, h]

theorem flipBit_ne (b : Byte) (j : Fin 8) : b ^^^ (1#8 <<< j.val) ≠ b := by
  have hbit : ∀ j : Fin 8, 1#8 <<< j.val ≠ 0#8 := by decide
  simpa using hbit j

/-- The count bits do not see a change of a version bit (41_synchronizer.md R121). -/
theorem hdrCount_flipBit (b : Byte) {j : Fin 8} (hj : 5 ≤ j.val) : hdrCount (b ^^^ (1#8 <<< j.val)) = hdrCount b := by
  have hbit : ∀ j : Fin 8, 5 ≤ j.val → (1#8 <<< j.val).extractLsb' 0 5 = 0#5 := by decide
  rw [hdrCount, BitVec.extractLsb'_xor, hbit j hj, BitVec.xor_zero, hdrCount]

/-- A change outside the indicator and the count bits leaves the described length. -/
theorem hdrLen_flipBit {f : List Byte} {k : Nat} {j : Fin 8} (hk : k < f.length) (hp : 2 ≤ k ∨ (k = 1 ∧ 5 ≤ j.val)) :
    hdrLen (byteAt (f.set k (byteAt f k ^^^ (1#8 <<< j.val))) 1) = hdrLen (byteAt f 1) := by
  obtain h2 | ⟨rfl, hj⟩ := hp
  · rw [byteAt_set_of_ne (by omega)]
  · rw [byteAt_set_self hk, hdrLen, hdrCount_flipBit _ hj, hdrLen]

/-- ATTEMPT on a candidate that fails its check, whatever follows it (41_synchronizer.md R127). -/
theorem exec_attempt_of_bad_frame {s : State} {f t : List Byte} (hf : s.fatal = false) (hbuf : s.buf = f ++ t)
    (hi : byteAt f 0 = s.cfg.headerIndicator) (hl : f.length = hdrLen (byteAt f 1))
    (hbad : frameOk s.cfg f = false) :
    exec .attempt s = .next { s with buf := t, status := 0x3#4, need := 0#7 } := by
  obtain ⟨hL, -⟩ := hdrLen_bounds (byteAt f 1)
  have h0 : byteAt (f ++ t) 0 = byteAt f 0 := byteAt_append_left (by omega)
  have h1 : hdrLen (byteAt (f ++ t) 1) = f.length := by rw [byteAt_append_left (by omega), hl]
  have hlen : (f ++ t).length = f.length + t.length := List.length_append
  have hcase := AttemptCase.rejected (cfg := s.cfg) (B := f ++ t) (by omega) (h0.trans hi) (by omega)
    (by rwa [h1, List.take_left])
  rw [h1, List.drop_left] at hcase
  rw [exec_of_live .attempt hf, liveEffect, hbuf, attemptCore_eq_of_case hcase, applyAttempt_none s rfl]
  rfl

/-- Settles O36: the changed frame keeps its indicator and its length, so it is a candidate that fails its check. -/
theorem singleBitErrorIsRejected : Obligations.SingleBitErrorIsRejected := by
  intro s f t k j htab hf _ hi hl hok hk hp hbuf
  rw [← hdrLen_eq] at hl
  refine exec_attempt_of_bad_frame hf hbuf ?_ ?_ (frameOk_set_eq_false htab hok hk (flipBit_ne _ j))
  · rw [byteAt_set_of_ne (by omega), hi]
  · rw [List.length_set, hdrLen_flipBit hk hp, hl]

end Sys2Proof.Machine

/-! What PUSH, one decode attempt and DRAIN do with the bytes in BUF, and the packets of a stream, however it is split
into chunks. -/

namespace Sys2Proof.Machine

/-! ### The attempt, case by case (41_synchronizer.md R122 to R129) -/

theorem exec_attempt_of_live {s : State} (hf : s.fatal = false) :
    exec .attempt s = .next (applyAttempt (attemptCore s.cfg s.buf) s) := exec_of_live .attempt hf

/-- An attempt without a packet writes BUF, STATUS and NEED, as its case says. -/
theorem exec_attempt_of_case {s : State} {o : AttemptOutcome} {n : Nat} {B : List Byte} (hf : s.fatal = false)
    (hc : AttemptCase s.cfg s.buf ⟨o, n, B, none⟩) :
    exec .attempt s = .next { s with buf := B, status := (outcomeCode o).bits, need := BitVec.ofNat 7 n } := by
  rw [exec_attempt_of_live hf, attemptCore_eq_of_case hc, applyAttempt_none s rfl]

/-- A NEED_MORE attempt writes STATUS and NEED only, and the amount fits NEED. -/
theorem exec_attempt_of_needMore_case {s : State} {n : Nat} (hf : s.fatal = false)
    (hc : AttemptCase s.cfg s.buf ⟨.needMore, n, s.buf, none⟩) :
    ∃ t, exec .attempt s = .next t ∧ t = { s with status := 0x1#4, need := t.need } ∧ t.need.toNat = n := by
  have hn := ofNat_attemptCore_amount s.cfg s.buf
  rw [attemptCore_eq_of_case hc] at hn
  exact ⟨_, exec_attempt_of_case hf hc, rfl, hn⟩

/-! ### The candidate first in BUF, read from BUF (40_checksum.md R103, 42_decoder.md R150) -/

/-- The check of the candidate first in B, read from B itself (40_checksum.md R103). -/
theorem frameOk_take_iff (cfg : Config) {B : List Byte} {L : Nat} (h0 : 0 < L) (hl : L ≤ B.length) :
    frameOk cfg (B.take L) = true ↔ crc8 cfg (B.take (L - 1)) = byteAt B (L - 1) := by
  rw [frameOk_iff, List.length_take_of_le hl, List.take_take, min_eq_left (by omega), byteAt_take (by omega)]

/-- Decoding reads no byte after the described length. -/
theorem decodeFrame_take (B : List Byte) : decodeFrame (B.take (hdrLen (byteAt B 1))) = decodeFrame B := by
  have hL : hdrLen (byteAt B 1) = 11 + 3 * (hdrCount (byteAt B 1)).toNat := frameLen_eq _
  have h1 : byteAt (B.take (hdrLen (byteAt B 1))) 1 = byteAt B 1 := byteAt_take (by omega)
  have hle {o : Nat} (ho : o + 1 < hdrLen (byteAt B 1)) :
      le16At (B.take (hdrLen (byteAt B 1))) o = le16At B o := by
    rw [le16At, byteAt_take (by omega), byteAt_take ho, le16At]
  have hsamples : ∀ k ∈ List.range (hdrCount (byteAt B 1)).toNat,
      frameSample (B.take (hdrLen (byteAt B 1))) k = frameSample B k := by
    intro k hk
    rw [List.mem_range] at hk
    rw [frameSample, hle (by omega), byteAt_take (by omega), frameSample]
  simp only [decodeFrame, h1]
  rw [hle (by omega), hle (by omega), hle (by omega), hle (by omega), byteAt_take (by omega),
    List.map_congr_left hsamples]

theorem hdrVer_eq (b : Byte) : hdrVer b = (b >>> 5).setWidth 3 := by
  revert b; decide

theorem hdrCount_eq (b : Byte) : hdrCount b = BitVec.ofNat 5 (b &&& 0x1F#8).toNat := by
  rw [← hdrCount_toNat, BitVec.ofNat_toNat, BitVec.setWidth_eq]

theorem le16At_of_eq_succ (f : List Byte) {o o' : Nat} (h : o' = o + 1) : le16At f o = byteAt f o' ++ byteAt f o := by
  rw [h, le16At_eq_append]

/-- Slot k of the decoded packet: the sample's bytes, or zeros. -/
theorem slotOf_decodeFrame (f : List Byte) (k : Nat) :
    slotOf (decodeFrame f) k =
      if k < (hdrCount (byteAt f 1)).toNat
      then ⟨byteAt f (7 + 3 * k) ++ byteAt f (6 + 3 * k), byteAt f (8 + 3 * k)⟩ else ⟨0#16, 0#8⟩ := by
  have hdist := le16At_of_eq_succ f (by omega : 7 + 3 * k = 6 + 3 * k + 1)
  split_ifs with hk
  · rw [slotOf_used (p := decodeFrame f) hk]
    simp [decodeFrame, hk, frameSample, hdist]
  · exact slotOf_unused (Nat.not_lt.mp hk)

/-- Every packet register from its offset in the frame (42_decoder.md R150, R151). -/
theorem pktRegsOf_decodeFrame (f : List Byte) {N : Nat} (hN : N = (byteAt f 1 &&& 0x1F#8).toNat) :
    pktRegsOf (decodeFrame f) =
      { valid := true
        ver := (byteAt f 1 >>> 5).setWidth 3
        n := BitVec.ofNat 5 N
        speed := byteAt f 3 ++ byteAt f 2
        startAngle := byteAt f 5 ++ byteAt f 4
        dist := Vector.ofFn fun k : Fin 31 =>
          if k.val < N then byteAt f (7 + 3 * k.val) ++ byteAt f (6 + 3 * k.val) else 0#16
        conf := Vector.ofFn fun k : Fin 31 => if k.val < N then byteAt f (8 + 3 * k.val) else 0#8
        endAngle := byteAt f (7 + 3 * N) ++ byteAt f (6 + 3 * N)
        ts := byteAt f (9 + 3 * N) ++ byteAt f (8 + 3 * N)
        crc := byteAt f (10 + 3 * N) } := by
  have hn : hdrCount (byteAt f 1) = BitVec.ofNat 5 N := hN ▸ hdrCount_eq _
  have hnN : (BitVec.ofNat 5 N).toNat = N := by rw [← hn, hdrCount_toNat, hN]
  have hend := le16At_of_eq_succ f (by omega : 7 + 3 * N = 6 + 3 * N + 1)
  have hts := le16At_of_eq_succ f (by omega : 9 + 3 * N = 8 + 3 * N + 1)
  simp only [pktRegsOf, slotOf_decodeFrame, apply_ite Sample.dist, apply_ite Sample.conf]
  simp only [decodeFrame, hdrVer_eq, hn, hnN, hend, hts, le16At_eq_append]

/-! ### The obligations on ATTEMPT -/

/-- Settles O14: the header case. -/
theorem attemptHeaderStage : Obligations.AttemptHeaderStage :=
  fun _ hf h => exec_attempt_of_needMore_case hf (.header h)

/-- Settles O15: the noise case. -/
theorem attemptResync : Obligations.AttemptResync := by
  intro s hf h hi
  rw [exec_attempt_of_case hf (.noise h hi), List.drop_one]
  rfl

/-- Settles O16: the body case; a described length is at most 104 and two bytes are there. -/
theorem attemptBodyStage : Obligations.AttemptBodyStage := by
  intro s hf h hi L hL hl
  rw [← hdrLen_eq] at hL
  subst hL
  obtain ⟨t, hx, ht, hn⟩ := exec_attempt_of_needMore_case hf (.body h hi hl)
  obtain ⟨-, hmax⟩ := hdrLen_bounds (byteAt s.buf 1)
  exact ⟨t, hx, ht, hn, by omega, by omega⟩

/-- Settles O17: the rejected case. -/
theorem attemptRejects : Obligations.AttemptRejects := by
  intro s hf h hi L hL hl hcrc
  rw [← hdrLen_eq] at hL
  subst hL
  obtain ⟨hmin, -⟩ := hdrLen_bounds (byteAt s.buf 1)
  have hbad : frameOk s.cfg (s.buf.take (hdrLen (byteAt s.buf 1))) = false := by
    rw [← Bool.not_eq_true, frameOk_take_iff s.cfg (by omega) hl]
    exact hcrc
  exact exec_attempt_of_case hf (.rejected h hi hl hbad)

/-- Settles O18: the packet case, field by field from the bytes of BUF. -/
theorem attemptProducesPacket : Obligations.AttemptProducesPacket := by
  intro s hf h hi N L hN hL hl hcrc
  rw [hN, ← hdrLen_eq] at hL
  subst hL
  obtain ⟨hmin, -⟩ := hdrLen_bounds (byteAt s.buf 1)
  have hok := (frameOk_take_iff s.cfg (by omega) hl).mpr hcrc
  rw [exec_attempt_of_live hf, attemptCore_eq_of_case (.packet h hi hl hok), applyAttempt_some s rfl, decodeFrame_take,
    pktRegsOf_decodeFrame s.buf hN]
  rfl

/-! ### Repeating an attempt, a full buffer, more bytes behind (41_synchronizer.md R120, R132 to R135) -/

/-- Settles O19: the second attempt looks at the same bytes, and its writes are those already made. -/
theorem needMoreIsIdempotent : Obligations.NeedMoreIsIdempotent := by
  intro s t hf hx hst
  obtain rfl := eq_liveEffect_of_exec hf hx
  rw [liveEffect, applyAttempt_status, outcomeCode_bits_eq_needMore_iff] at hst
  obtain ⟨hrest, hnone⟩ := attemptCore_needMore hst
  rw [liveEffect, applyAttempt_buf]
  refine ⟨hrest, ?_⟩
  rw [exec_attempt_of_live (by rwa [applyAttempt_fatal]), applyAttempt_cfg, applyAttempt_buf, hrest]
  conv_lhs => rw [applyAttempt_none s hnone, applyAttempt_overwrites]

/-- No frame is longer than 104 bytes, so none is waited for with 104 bytes buffered (41_synchronizer.md R134). -/
theorem attemptCore_decided_of_length {cfg : Config} {B : List Byte} (h : 104 ≤ B.length) :
    (attemptCore cfg B).outcome ≠ .needMore := by
  obtain ⟨-, hL⟩ := hdrLen_bounds (byteAt B 1)
  refine attemptCore_all (P := fun r => r.outcome ≠ .needMore) fun r hc => ?_
  cases hc with
  | header | body => omega
  | noise | rejected | packet => simp

theorem exec_attempt_shortens {s : State} (hf : s.fatal = false) (h : 104 ≤ s.buf.length) :
    ∃ t, exec .attempt s = .next t ∧ t.fatal = false ∧ t.cfg = s.cfg ∧ t.buf.length < s.buf.length :=
  ⟨_, exec_attempt_of_live hf, (applyAttempt_fatal _ s).trans hf, applyAttempt_cfg _ s, by
    rw [applyAttempt_buf]
    exact attemptCore_rest_lt (attemptCore_decided_of_length h)⟩

/-- Settles O20: a legal capacity is at least the length of the longest frame. -/
theorem fullBufferMakesProgress : Obligations.FullBufferMakesProgress := by
  refine ⟨fun cfg B h => ⟨attemptCore_decided_of_length h, attemptCore_rest_lt (attemptCore_decided_of_length h)⟩,
    fun s hwf hf hfull => ?_⟩
  obtain ⟨t, hx, htf, hcfg, hlt⟩ := exec_attempt_shortens hf (hfull ▸ hwf)
  exact ⟨t, hx, by omega, fun b => execPush_of_room b htf (by rw [hcfg]; omega)⟩

/-- Settles O13: the two branches of PUSH, and one attempt on the full buffer. -/
theorem pushAppendsOrReportsFull : Obligations.PushAppendsOrReportsFull := by
  intro s b
  refine ⟨packWord_eq_or 1#4 b, exec_of_fatal (.push b), fun hf hfull => ⟨execPush_of_full b hf hfull, fun hcap => ?_⟩,
    execPush_of_room b⟩
  obtain ⟨t, hx, -, -, hlt⟩ := exec_attempt_shortens (s := { s with status := 0x6#4 }) hf (hfull ▸ hcap)
  exact ⟨t, hx, hlt⟩

/-- Each test of a decided attempt reads only bytes B holds (41_synchronizer.md R135). -/
theorem attemptCore_append_of_decided {cfg : Config} {B : List Byte} (h : (attemptCore cfg B).outcome ≠ .needMore)
    (t : List Byte) :
    attemptCore cfg (B ++ t) = { attemptCore cfg B with rest := (attemptCore cfg B).rest ++ t } := by
  revert h
  refine attemptCore_all
    (P := fun r => r.outcome ≠ .needMore → attemptCore cfg (B ++ t) = { r with rest := r.rest ++ t })
    fun r hc hne => attemptCore_eq_of_case ?_
  have hlen : (B ++ t).length = B.length + t.length := List.length_append
  cases hc with
  | header | body => exact absurd rfl hne
  | noise h hi =>
    rw [← List.drop_append_of_le_length (by omega)]
    exact .noise (by omega) (by rwa [byteAt_append_left (by omega)])
  | rejected h hi hl hok =>
    have h1 : byteAt (B ++ t) 1 = byteAt B 1 := byteAt_append_left (by omega)
    rw [← List.drop_append_of_le_length hl]
    rw [← List.take_append_of_le_length hl] at hok
    rw [← h1] at hl hok ⊢
    exact .rejected (by omega) (by rwa [byteAt_append_left (by omega)]) (by omega) hok
  | packet h hi hl hok =>
    have h1 : byteAt (B ++ t) 1 = byteAt B 1 := byteAt_append_left (by omega)
    rw [← List.drop_append_of_le_length hl, ← List.take_append_of_le_length hl]
    rw [← List.take_append_of_le_length hl] at hok
    rw [← h1] at hl hok ⊢
    exact .packet (by omega) (by rwa [byteAt_append_left (by omega)]) (by omega) hok

/-- An attempt that waits for more than t waits for t less after it (41_synchronizer.md R135). -/
theorem attemptCore_append_of_needMore {cfg : Config} {B t : List Byte} (h : (attemptCore cfg B).outcome = .needMore)
    (ht : t.length < (attemptCore cfg B).amount) :
    attemptCore cfg (B ++ t) = ⟨.needMore, (attemptCore cfg B).amount - t.length, B ++ t, none⟩ := by
  revert h ht
  refine attemptCore_all (P := fun r => r.outcome = .needMore → t.length < r.amount →
    attemptCore cfg (B ++ t) = ⟨.needMore, r.amount - t.length, B ++ t, none⟩)
    fun r hc hneed ht => attemptCore_eq_of_case ?_
  have hlen : (B ++ t).length = B.length + t.length := List.length_append
  cases hc with
  | header h =>
    dsimp only at ht ⊢
    rw [Nat.sub_sub, ← hlen]
    exact .header (by omega)
  | body h hi hl =>
    have h1 : byteAt (B ++ t) 1 = byteAt B 1 := byteAt_append_left (by omega)
    dsimp only at ht ⊢
    rw [Nat.sub_sub, ← hlen]
    rw [← h1] at hl ht ⊢
    exact .body (by omega) (by rwa [byteAt_append_left (by omega)]) (by omega)
  | noise | rejected | packet => cases hneed

/-- Settles O21. -/
theorem appendKeepsDecidedAttempt : Obligations.AppendKeepsDecidedAttempt :=
  fun _ _ t => ⟨fun h => attemptCore_append_of_decided h t, attemptCore_append_of_needMore⟩

/-! ### Frames first in BUF (41_synchronizer.md R128, R133, 42_decoder.md R156) -/

/-- The attempt on a valid frame, whatever follows it. -/
theorem attemptCore_frame_append {cfg : Config} {f : List Byte} (hi : byteAt f 0 = cfg.headerIndicator)
    (hl : f.length = hdrLen (byteAt f 1)) (hok : frameOk cfg f = true) (t : List Byte) :
    attemptCore cfg (f ++ t) = ⟨.packet, 0, t, some (decodeFrame f)⟩ := by
  obtain ⟨hmin, -⟩ := hdrLen_bounds (byteAt f 1)
  have hcase := AttemptCase.packet (cfg := cfg) (B := f) (by omega) hi hl.ge
    (by rwa [← hl, List.take_length])
  rw [← hl, List.drop_length, List.take_length] at hcase
  have hf := attemptCore_eq_of_case hcase
  rw [attemptCore_append_of_decided (by simp [hf]), hf, List.nil_append]

/-- Settles O27: DRAIN's loop passes the noise byte, and the attempt on the frame ends it. -/
theorem noiseByteIsDiscarded : Obligations.NoiseByteIsDiscarded := by
  intro s b f t hf hb hbuf h2 hi hl hok
  rw [← hdrLen_eq] at hl
  have hnoise : attemptCore s.cfg s.buf = ⟨.resync, 0, f ++ t, none⟩ := by
    rw [hbuf]
    exact attemptCore_eq_of_case (.noise (by simp; omega) hb)
  have hframe := attemptCore_frame_append hi hl hok t
  have hdrain : drainCore s.cfg s.buf.length s.buf = ⟨.packet, 0, t, some (decodeFrame f)⟩ := by
    rw [drainCore_of_goesOn (by rw [hnoise]; rfl), hnoise, drainCore_of_settled (by rw [hframe]; rfl), hframe]
  rw [exec_of_live .drain hf, liveEffect, hdrain, applyAttempt_some s rfl]
  rfl

theorem le16Bytes_injective : Function.Injective le16Bytes :=
  Function.LeftInverse.injective (g := fun l => le16At l 0) fun v => le16At_le16Bytes v []

theorem sampleBytes_injective : Function.Injective sampleBytes := by
  rintro ⟨d, c⟩ ⟨d', c'⟩ h
  obtain ⟨hd, hc⟩ := List.append_inj' h rfl
  obtain rfl := le16Bytes_injective hd
  obtain rfl := List.singleton_inj.mp hc
  rfl

theorem flatMap_sampleBytes_injective : Function.Injective (List.flatMap sampleBytes) := by
  intro l
  induction l with
  | nil =>
    intro m h
    have hlen := congrArg List.length h
    rw [flatMap_sampleBytes_length, flatMap_sampleBytes_length, List.length_nil] at hlen
    exact (List.length_eq_zero_iff.mp (by omega)).symm
  | cons x l ih =>
    intro m h
    cases m with
    | nil => cases h
    | cons y m =>
      rw [List.flatMap_cons, List.flatMap_cons] at h
      obtain ⟨hx, hl⟩ := List.append_inj h rfl
      rw [sampleBytes_injective hx, ih hl]

/-- The wire form tells packets apart: its fields lie side by side, and the samples fill what is left between them. -/
theorem encodePacket_injective (h : Byte) : Function.Injective (encodePacket h) := by
  intro p q hpq
  obtain ⟨hbody, hcrc⟩ := List.append_inj' hpq rfl
  obtain ⟨hbody, hts⟩ := List.append_inj' hbody rfl
  obtain ⟨hbody, hend⟩ := List.append_inj' hbody rfl
  obtain ⟨hbody, hsamples⟩ := List.append_inj hbody rfl
  obtain ⟨hbody, hstart⟩ := List.append_inj' hbody rfl
  obtain ⟨hhead, hspeed⟩ := List.append_inj' hbody rfl
  have hbyte : headerByte p.ver p.n = headerByte q.ver q.n := congrArg (byteAt · 1) hhead
  have hver : p.ver = q.ver := by rw [← hdrVer_headerByte p.ver p.n, hbyte, hdrVer_headerByte]
  have hn : p.n = q.n := by rw [← hdrCount_headerByte p.ver p.n, hbyte, hdrCount_headerByte]
  exact (Packet.mk.injEq ..).mpr
    ⟨hver, hn, le16Bytes_injective hspeed, le16Bytes_injective hstart, flatMap_sampleBytes_injective hsamples,
      le16Bytes_injective hend, le16Bytes_injective hts, List.singleton_inj.mp hcrc⟩

theorem encodePacket_length_eq_hdrLen {h : Byte} {p : Packet} (hp : p.wf) :
    (encodePacket h p).length = hdrLen (byteAt (encodePacket h p) 1) := by
  have h1 : byteAt (encodePacket h p) 1 = headerByte p.ver p.n := rfl
  rw [encodePacket_length hp, h1, hdrLen, hdrCount_headerByte]

/-- Decoding a packet's wire form gives the packet: its frame is the wire form of both (42_decoder.md R156). -/
theorem decodeFrame_encodePacket {h : Byte} {p : Packet} (hp : p.wf) : decodeFrame (encodePacket h p) = p :=
  encodePacket_injective h (encodePacket_decodeFrame (encodePacket_length_eq_hdrLen hp))

/-- The wire form of a packet passes the check when its last byte is the checksum of the others (30_encoding.md R74). -/
theorem frameOk_encodePacket_iff {cfg : Config} {h : Byte} {p : Packet} :
    frameOk cfg (encodePacket h p) = true ↔ crc8 cfg (packetBody h p) = p.crc := by
  have hlen : (encodePacket h p).length - 1 = (packetBody h p).length := by simp [encodePacket]
  rw [frameOk_iff, hlen, encodePacket, List.take_left]
  simp [byteAt]

/-- Settles O29: the wire form is a frame that passes, and its decoding is read back from the registers. -/
theorem encodedPacketIsReceived : Obligations.EncodedPacketIsReceived := by
  intro s p t hf hp hcrc hbuf
  have hok : frameOk s.cfg (encodePacket s.cfg.headerIndicator p) = true := frameOk_encodePacket_iff.mpr hcrc.symm
  have hattempt := attemptCore_frame_append (cfg := s.cfg) rfl (encodePacket_length_eq_hdrLen hp) hok t
  rw [decodeFrame_encodePacket hp, ← hbuf] at hattempt
  rw [exec_attempt_of_live hf, hattempt, applyAttempt_some s rfl]
  exact ⟨_, rfl, rfl, rfl, rfl, packetOfRegs_pktRegsOf hp⟩

/-! ### DRAIN as a sequence of attempts (41_synchronizer.md R130, 92_eei_decisions.md D20) -/

theorem exec_drain_of_settled {s : State} (hf : s.fatal = false)
    (h : goesOn (attemptCore s.cfg s.buf).outcome = false) :
    exec .drain s = .next (applyAttempt (attemptCore s.cfg s.buf) s) := by
  rw [exec_of_live .drain hf, liveEffect, drainCore_of_settled h]

/-- DRAIN goes on from the state an attempt left that did not settle it. -/
theorem exec_drain_of_goesOn {s : State} (hf : s.fatal = false)
    (h : goesOn (attemptCore s.cfg s.buf).outcome = true) :
    exec .drain s = exec .drain (applyAttempt (attemptCore s.cfg s.buf) s) := by
  rw [exec_of_live .drain hf, liveEffect, drainCore_of_goesOn h,
    exec_of_live .drain ((applyAttempt_fatal _ s).trans hf), liveEffect, applyAttempt_cfg, applyAttempt_buf,
    applyAttempt_of_goesOn h]

theorem outcomeCode_bits_settled_iff {o : AttemptOutcome} :
    (outcomeCode o).bits = 0x1#4 ∨ (outcomeCode o).bits = 0x4#4 ↔ goesOn o = false := by
  cases o <;> decide

theorem outcomeCode_bits_goesOn_iff {o : AttemptOutcome} :
    (outcomeCode o).bits = 0x2#4 ∨ (outcomeCode o).bits = 0x3#4 ↔ goesOn o = true := by
  cases o <;> decide

/-- Settles O23: one turn of DRAIN's loop, and the loop ends settled. -/
theorem drainAttemptsUntilSettled : Obligations.DrainAttemptsUntilSettled := by
  refine ⟨rfl, fun s => ⟨exec_of_fatal .drain, fun hf => ⟨⟨_, exec_of_live .drain hf, ?_⟩, fun t hx => ?_⟩⟩⟩
  · rw [liveEffect, applyAttempt_status, outcomeCode_bits_settled_iff]
    exact drainCore_settled s.cfg _ s.buf le_rfl
  · obtain rfl := eq_liveEffect_of_exec hf hx
    rw [liveEffect, applyAttempt_status, outcomeCode_bits_settled_iff, outcomeCode_bits_goesOn_iff]
    exact ⟨exec_drain_of_settled hf, exec_drain_of_goesOn hf⟩

/-- An attempt before the last removes a byte, so len(BUF) attempts after the first are enough. -/
theorem exec_drain_eq_attemptUntil {k : Nat} {s : State} (hf : s.fatal = false) (hk : s.buf.length ≤ k) :
    exec .drain s = .next (attemptUntil k s) := by
  induction k generalizing s with
  | zero =>
    have hnil : s.buf = [] := List.length_eq_zero_iff.mp (by omega)
    rw [attemptUntil, issue_of_live .attempt hf]
    exact exec_drain_of_settled hf (by rw [hnil]; rfl)
  | succ k ih =>
    rw [attemptUntil, issue_of_live .attempt hf, liveEffect, applyAttempt_status]
    split_ifs with hst
    · exact exec_drain_of_settled hf (outcomeCode_bits_settled_iff.mp hst)
    · have hgo : goesOn (attemptCore s.cfg s.buf).outcome = true := by
        rw [← Bool.not_eq_false, ← outcomeCode_bits_settled_iff]
        exact hst
      have hlt := attemptCore_rest_lt (goesOn_ne_needMore hgo)
      rw [exec_drain_of_goesOn hf hgo]
      exact ih (by rw [applyAttempt_fatal, hf]) (by rw [applyAttempt_buf]; omega)

/-- Settles O24. -/
theorem drainRefinesAttempts : Obligations.DrainRefinesAttempts :=
  fun _ hf => exec_drain_eq_attemptUntil hf le_rfl

/-! ### The packets and the rest of a stream (41_synchronizer.md R136) -/

/-- More fuel than len(B) + 1 changes nothing (log 14). -/
theorem streamRun_eq {cfg : Config} {k : Nat} {B : List Byte} (hk : B.length < k) :
    streamRun cfg k B = (packetsOf cfg B, restOf cfg B) := by
  suffices h : ∀ m, B.length < m → streamRun cfg k B = streamRun cfg m B from h _ (Nat.lt_succ_self _)
  induction k generalizing B with
  | zero => omega
  | succ k ih =>
    intro m hm
    obtain ⟨m, rfl⟩ : ∃ j, m = j + 1 := ⟨m - 1, by omega⟩
    by_cases h : (attemptCore cfg B).outcome = .needMore
    · rw [streamRun_of_needMore h, streamRun_of_needMore h]
    · have hlt := attemptCore_rest_lt h
      rw [streamRun_of_decided h, streamRun_of_decided h, ih (by omega) m (by omega)]

theorem stream_of_needMore {cfg : Config} {B : List Byte} (h : (attemptCore cfg B).outcome = .needMore) :
    packetsOf cfg B = [] ∧ restOf cfg B = B := by
  rw [packetsOf, restOf, streamRun_of_needMore h]
  exact ⟨rfl, rfl⟩

/-- An attempt takes its packet, if it gives one, off the front of the packets of the stream; one that needs more takes
nothing. -/
theorem stream_of_attempt (cfg : Config) (B : List Byte) :
    packetsOf cfg B = (attemptCore cfg B).packet.toList ++ packetsOf cfg (attemptCore cfg B).rest ∧
    restOf cfg B = restOf cfg (attemptCore cfg B).rest := by
  by_cases h : (attemptCore cfg B).outcome = .needMore
  · obtain ⟨hrest, hnone⟩ := attemptCore_needMore h
    rw [hrest, hnone]
    exact ⟨rfl, rfl⟩
  · rw [packetsOf, restOf, streamRun_of_decided h, streamRun_eq (attemptCore_rest_lt h)]
    exact ⟨rfl, rfl⟩

theorem attemptCore_restOf (cfg : Config) (B : List Byte) : (attemptCore cfg (restOf cfg B)).outcome = .needMore := by
  obtain ⟨-, -, -, hneed, -⟩ := streamRun_splits (cfg := cfg) (Nat.lt_succ_self B.length)
  exact hneed

/-- What comes after S is decoded behind the rest of S (41_synchronizer.md R135). -/
theorem stream_append (cfg : Config) (S T : List Byte) :
    packetsOf cfg (S ++ T) = packetsOf cfg S ++ packetsOf cfg (restOf cfg S ++ T) ∧
    restOf cfg (S ++ T) = restOf cfg (restOf cfg S ++ T) := by
  induction hn : S.length using Nat.strong_induction_on generalizing S with
  | _ n ih =>
    by_cases h : (attemptCore cfg S).outcome = .needMore
    · obtain ⟨hp, hr⟩ := stream_of_needMore h
      rw [hp, hr]
      exact ⟨rfl, rfl⟩
    · obtain ⟨hp, hr⟩ := stream_of_attempt cfg S
      obtain ⟨hpT, hrT⟩ := stream_of_attempt cfg (S ++ T)
      rw [attemptCore_append_of_decided h] at hpT hrT
      obtain ⟨ihp, ihr⟩ := ih _ (hn ▸ attemptCore_rest_lt h) _ rfl
      rw [hpT, hrT, hp, hr, ihp, ihr, List.append_assoc]
      exact ⟨rfl, rfl⟩

/-- What DRAIN's loop passes through is no packet: its last attempt sees a stream with the same packets and rest. -/
theorem drainCore_is_attempt_of_stream (cfg : Config) (B : List Byte) :
    ∃ C, C.length ≤ B.length ∧ drainCore cfg B.length B = attemptCore cfg C ∧
      packetsOf cfg C = packetsOf cfg B ∧ restOf cfg C = restOf cfg B := by
  induction hn : B.length using Nat.strong_induction_on generalizing B with
  | _ n ih =>
    subst hn
    cases hgo : goesOn (attemptCore cfg B).outcome with
    | false => exact ⟨B, le_rfl, drainCore_of_settled hgo, rfl, rfl⟩
    | true =>
      have hlt := attemptCore_rest_lt (goesOn_ne_needMore hgo)
      obtain ⟨C, hC, hd, hp, hr⟩ := ih _ hlt _ rfl
      have hnone : (attemptCore cfg B).packet = none := by
        rw [attemptCore_packet_iff]
        intro h
        rw [h] at hgo
        cases hgo
      obtain ⟨hpB, hrB⟩ := stream_of_attempt cfg B
      rw [hnone] at hpB
      exact ⟨C, by omega, (drainCore_of_goesOn hgo).trans hd, hp.trans hpB.symm, hr.trans hrB.symm⟩

/-! ### The caller's loop (41_synchronizer.md R136, R138) -/

/-- A poll of either kind applies one attempt, on a rest of BUF with the same packets to come. -/
theorem issue_poll (p : Poll) {s : State} (hf : s.fatal = false) :
    ∃ C, C.length ≤ s.buf.length ∧ issue (pollInstr p) s = applyAttempt (attemptCore s.cfg C) s ∧
      packetsOf s.cfg C = packetsOf s.cfg s.buf ∧ restOf s.cfg C = restOf s.cfg s.buf := by
  rw [issue_of_live _ hf]
  cases p with
  | attempt => exact ⟨s.buf, le_rfl, rfl, rfl, rfl⟩
  | drain =>
    obtain ⟨C, hC, hd, h⟩ := drainCore_is_attempt_of_stream s.cfg s.buf
    exact ⟨C, hC, congrArg (applyAttempt · s) hd, h⟩

/-- The caller reads PKT_* after a PACKET, and finds the attempt's packet there (42_decoder.md R154). -/
theorem read_applyAttempt (cfg : Config) (B : List Byte) (s : State) (l : List Packet) :
    (if (applyAttempt (attemptCore cfg B) s).status = StatusCode.packet.bits
      then packetOfRegs (applyAttempt (attemptCore cfg B) s).pkt :: l else l) =
    (attemptCore cfg B).packet.toList ++ l := by
  refine attemptCore_all (P := fun r => (if (applyAttempt r s).status = StatusCode.packet.bits
    then packetOfRegs (applyAttempt r s).pkt :: l else l) = r.packet.toList ++ l) fun r hc => ?_
  rw [applyAttempt_status, applyAttempt_pkt]
  cases hc with
  | header | noise | body | rejected => rfl
  | packet =>
    dsimp only
    rw [packetOfRegs_pktRegsOf (decodeFrame_wf _)]
    rfl

/-- Polling until NEED_MORE reads the packets of BUF and leaves its rest. -/
theorem pollUntilNeed_reads (p : Poll) {k : Nat} {s : State} (hf : s.fatal = false) (hk : s.buf.length < k) :
    (pollUntilNeed p k s).1.fatal = false ∧ (pollUntilNeed p k s).1.cfg = s.cfg ∧
    (pollUntilNeed p k s).1.buf = restOf s.cfg s.buf ∧ (pollUntilNeed p k s).2 = packetsOf s.cfg s.buf := by
  induction k generalizing s with
  | zero => omega
  | succ k ih =>
    obtain ⟨C, hC, ht, hpC, hrC⟩ := issue_poll p hf
    rw [← hpC, ← hrC, pollUntilNeed, ht]
    dsimp only
    have hfatal := (applyAttempt_fatal (attemptCore s.cfg C) s).trans hf
    have hcfg := applyAttempt_cfg (attemptCore s.cfg C) s
    have hbuf := applyAttempt_buf (attemptCore s.cfg C) s
    have hst : (applyAttempt (attemptCore s.cfg C) s).status = StatusCode.needMore.bits ↔
        (attemptCore s.cfg C).outcome = .needMore := by
      rw [applyAttempt_status]
      exact outcomeCode_bits_eq_needMore_iff
    by_cases h : (attemptCore s.cfg C).outcome = .needMore
    · obtain ⟨hp, hr⟩ := stream_of_needMore h
      rw [if_pos (hst.mpr h), hp, hr]
      exact ⟨hfatal, hcfg, hbuf.trans (attemptCore_needMore h).1, rfl⟩
    · have hlt := attemptCore_rest_lt h
      obtain ⟨ihf, ihc, ihb, ihp⟩ := ih hfatal (by rw [hbuf]; omega)
      obtain ⟨hp, hr⟩ := stream_of_attempt s.cfg C
      rw [hcfg, hbuf] at ihb ihp
      rw [if_neg (mt hst.mp h), read_applyAttempt, hp, hr]
      exact ⟨ihf, ihc.trans hcfg, ihb, congrArg _ ihp⟩

theorem issue_push_of_not_full {b : Byte} {s : State} (hf : s.fatal = false)
    (h : (issue (.push b) s).status ≠ StatusCode.full.bits) :
    issue (.push b) s = { s with buf := s.buf ++ [b], status := 0x5#4 } := by
  have hroom : s.buf.length ≠ s.cfg.bufCapacity := by
    intro hl
    have hfull : exec (.push b) s = .next { s with status := 0x6#4 } := execPush_of_full b hf hl
    rw [issue, hfull] at h
    exact h rfl
  have hpush : exec (.push b) s = .next { s with buf := s.buf ++ [b], status := 0x5#4 } := execPush_of_room b hf hroom
  rw [issue, hpush]

/-- Pushing bytes none of which got FULL appends them. -/
theorem feedBytes_of_not_full {bs : List Byte} {s : State} (hf : s.fatal = false) (h : (feedBytes bs s).2 = false) :
    (feedBytes bs s).1 = { s with buf := s.buf ++ bs, status := (feedBytes bs s).1.status } := by
  induction bs generalizing s with
  | nil => simp [feedBytes]
  | cons b bs ih =>
    obtain ⟨hb, hbs⟩ := Bool.or_eq_false_iff.mp h
    have hpush := issue_push_of_not_full hf (beq_eq_false_iff_ne.mp hb)
    rw [hpush] at hbs
    rw [feedBytes, hpush]
    have hrun := ih (s := { s with buf := s.buf ++ [b], status := 0x5#4 }) hf hbs
    refine hrun.trans ?_
    rw [List.append_assoc]
    rfl

/-- One chunk, pushed without a FULL and polled out. -/
theorem runChunk_reads (c : List Byte × Poll) {s : State} (hf : s.fatal = false) (h : (runChunk c s).full = false) :
    (runChunk c s).state.fatal = false ∧ (runChunk c s).state.cfg = s.cfg ∧
    (runChunk c s).state.buf = restOf s.cfg (s.buf ++ c.1) ∧
    (runChunk c s).packets = packetsOf s.cfg (s.buf ++ c.1) := by
  have hfeed := feedBytes_of_not_full hf h
  have hpoll := pollUntilNeed_reads c.2 (s := (feedBytes c.1 s).1) (by rw [hfeed]; exact hf) (Nat.lt_succ_self _)
  rw [hfeed] at hpoll
  rw [runChunk, hfeed]
  exact hpoll

/-- From a buffer that needs more, the chunks' packets and rest are those of the bytes joined. -/
theorem runChunks_reads {chunks : List (List Byte × Poll)} {s : State} (hf : s.fatal = false)
    (hneed : (attemptCore s.cfg s.buf).outcome = .needMore) (h : (runChunks chunks s).full = false) :
    (runChunks chunks s).packets = packetsOf s.cfg (s.buf ++ chunks.flatMap Prod.fst) ∧
    (runChunks chunks s).state.buf = restOf s.cfg (s.buf ++ chunks.flatMap Prod.fst) := by
  induction chunks generalizing s with
  | nil =>
    obtain ⟨hp, hr⟩ := stream_of_needMore hneed
    rw [List.flatMap_nil, List.append_nil, hp, hr]
    exact ⟨rfl, rfl⟩
  | cons c cs ih =>
    obtain ⟨hc, hcs⟩ := Bool.or_eq_false_iff.mp h
    obtain ⟨hcf, hcfg, hbuf, hpackets⟩ := runChunk_reads c hf hc
    obtain ⟨ihp, ihr⟩ := ih hcf (by rw [hcfg, hbuf]; exact attemptCore_restOf _ _) hcs
    obtain ⟨hp, hr⟩ := stream_append s.cfg (s.buf ++ c.1) (cs.flatMap Prod.fst)
    rw [hcfg, hbuf] at ihp ihr
    rw [runChunks, List.flatMap_cons, ← List.append_assoc, hp, hr]
    exact ⟨congrArg₂ _ hpackets ihp, ihr⟩

/-- Settles O25: every chunk is decoded behind what the chunks before it left. -/
theorem fragmentationIndependence : Obligations.FragmentationIndependence := by
  intro s chunks hf hbuf h
  have hreads := runChunks_reads hf (by rw [hbuf]; rfl) h
  rwa [hbuf, List.nil_append] at hreads

end Sys2Proof.Machine

/-! The two directions of the packet's wire form, and what a change of the packet registers tells of the step. -/

namespace Sys2Proof.Machine

/-! ### The packet registers (42_decoder.md R155) -/

theorem liveEffect_pkt {i : Instr} (hi : ¬ (i = .attempt ∨ i = .drain)) (s : State) :
    (liveEffect i s).pkt = s.pkt := by
  cases i with
  | push b => rw [liveEffect, pushByte_frame]
  | attempt => exact absurd (.inl rfl) hi
  | drain => exact absurd (.inr rfl) hi
  | point k => rw [liveEffect, pointEffect_frame]
  | crcclr => rfl
  | crcb b => rfl
  | fail => rfl

/-- An attempt that changes PKT_* returned a packet, so its outcome is PACKET. -/
theorem applyAttempt_pkt_of_ne {s : State} {B : List Byte}
    (hne : (applyAttempt (attemptCore s.cfg B) s).pkt ≠ s.pkt) :
    (applyAttempt (attemptCore s.cfg B) s).status = 0x4#4 ∧
      (applyAttempt (attemptCore s.cfg B) s).pkt.valid = true := by
  cases hr : (attemptCore s.cfg B).packet with
  | none => exact absurd (by rw [applyAttempt_none s hr]) hne
  | some p =>
    have ho : (attemptCore s.cfg B).outcome = .packet :=
      not_not.mp (mt attemptCore_packet_iff.mpr (by simp [hr]))
    rw [applyAttempt_some s hr, ho]
    exact ⟨rfl, rfl⟩

/-- A command that changes PKT_* is ATTEMPT or DRAIN, and it ended with PACKET. -/
theorem exec_pkt_of_ne {i : Instr} {s t : State} (h : exec i s = .next t) (hne : t.pkt ≠ s.pkt) :
    (i = .attempt ∨ i = .drain) ∧ t.status = 0x4#4 ∧ t.pkt.valid = true := by
  obtain ⟨-, rfl⟩ | ⟨-, rfl⟩ := exec_cases h
  · exact absurd rfl hne
  · have hi : i = .attempt ∨ i = .drain := by_contra fun hi => hne (liveEffect_pkt hi s)
    obtain ⟨j, -, hj⟩ := liveEffect_poll hi s
    rw [hj] at hne ⊢
    exact ⟨hi, applyAttempt_pkt_of_ne hne⟩

theorem illegalResponse_pkt {s t : State} (h : illegalResponse s = .next t) : t.pkt = s.pkt := by
  obtain ⟨-, rfl⟩ | ⟨-, rfl⟩ := illegalResponse_cases h
  · rfl
  · exact report_pkt .illegal s

/-- Settles O30, by the three things a step can do. -/
theorem packetRegistersChangeOnlyByPacket : Obligations.PacketRegistersChangeOnlyByPacket := by
  intro s t h hne
  obtain ⟨rest, hp, -⟩ | ⟨w, rest, i, hp, hd, hx⟩ | ⟨w, rest, r, -, -, hx⟩ := step_cases h
  · exact .inl ⟨rest, hp⟩
  · obtain ⟨hi, ht⟩ := exec_pkt_of_ne hx hne
    obtain rfl := encode_of_decode hd
    exact .inr ⟨_, rest, hp, hi.imp (congrArg encode) (congrArg encode), ht⟩
  · exact absurd (illegalResponse_pkt hx) hne

/-! ### The wire form (42_decoder.md R156) -/

/-- Settles O28: a frame's bytes are its fields side by side, and no two packets have one wire form. Neither direction needs
the checksum: the decoder checks nothing (42_decoder.md R152). -/
theorem packetWireRoundTrip : Obligations.PacketWireRoundTrip := by
  refine ⟨fun cfg f _ hi hl _ => ?_, fun _ _ hp _ => decodeFrame_encodePacket hp⟩
  rw [← hdrLen_eq] at hl
  rw [← hi]
  exact encodePacket_decodeFrame hl

end Sys2Proof.Machine

/-! POINT case by case, the exact integers it writes, and the angle they make in degrees. -/

namespace Sys2Proof.Machine

/-! ### POINT in each of its cases (43_interpolator.md R173) -/

theorem pointEffect_of_noPacket {s : State} (hv : s.pkt.valid = false) (i : Nat) :
    pointEffect i s = { s with status := 0x9#4 } := if_pos hv

theorem pointEffect_of_badIndex {s : State} (hv : s.pkt.valid = true) {i : Nat} (hi : s.pkt.n.toNat ≤ i) :
    pointEffect i s = { s with status := 0x8#4 } :=
  (if_neg (by simp [hv])).trans (if_pos hi)

theorem pointEffect_of_lt {s : State} (hv : s.pkt.valid = true) {i : Nat} (hi : i < s.pkt.n.toNat) :
    pointEffect i s = { s with pt := pointRegs s.cfg s.pkt i, status := 0x7#4 } :=
  (if_neg (by simp [hv])).trans (if_neg hi.not_ge)

theorem exec_point_of_noPacket {s : State} {b : Byte} (hf : s.fatal = false) (hv : s.pkt.valid = false) :
    exec (.point b) s = .next { s with status := 0x9#4 } := by
  rw [exec_of_live (.point b) hf, liveEffect, pointEffect_of_noPacket hv]

theorem exec_point_of_badIndex {s : State} {b : Byte} (hf : s.fatal = false) (hv : s.pkt.valid = true)
    (hi : s.pkt.n.toNat ≤ b.toNat) : exec (.point b) s = .next { s with status := 0x8#4 } := by
  rw [exec_of_live (.point b) hf, liveEffect, pointEffect_of_badIndex hv hi]

theorem exec_point_of_lt {s : State} {b : Byte} (hf : s.fatal = false) (hv : s.pkt.valid = true)
    (hi : b.toNat < s.pkt.n.toNat) :
    exec (.point b) s = .next { s with pt := pointRegs s.cfg s.pkt b.toNat, status := 0x7#4 } := by
  rw [exec_of_live (.point b) hf, liveEffect, pointEffect_of_lt hv hi]

/-- Settles O38: no index is below a count of 0. -/
theorem zeroSamplesHaveNoPoint : Obligations.ZeroSamplesHaveNoPoint :=
  fun _ _ hf hv hn => exec_point_of_badIndex hf hv (by simp [hn])

/-! ### The span (43_interpolator.md R170, R171) -/

theorem span_eq (cfg : Config) (r : PktRegs) :
    span cfg r = spanReduce cfg.spanMod ((r.endAngle.toNat : Int) + 36000 - r.startAngle.toNat) := rfl

theorem span_of_start_le {r : PktRegs} (h : r.startAngle.toNat ≤ r.endAngle.toNat + 36000) (cfg : Config) :
    span cfg r = ((r.endAngle.toNat : Int) + 36000 - r.startAngle.toNat) % 36000 := by
  rw [span_eq]
  exact spanReduce_nonneg cfg.spanMod (by omega)

/-- Settles O40: a left side that is not negative has one remainder, a negative one is above −360.00°. -/
theorem spanReadingsCompared : Obligations.SpanReadingsCompared := by
  intro c d r hc hd
  have hS := r.startAngle.isLt
  refine ⟨fun h => by rw [span_of_start_le h c, span_of_start_le h d], fun h => ⟨by omega, ?_, ?_⟩⟩
  · rw [span_eq, hc]
    show (_ : Int) % 36000 = _
    omega
  · rw [span_eq, hd]
    exact spanReduce_trunc_neg (by omega) (by omega)

/-! ### The registers of a point hold its exact integers (43_interpolator.md R173, R174, R176) -/

/-- Settles O39, by the bounds that keep each value within its register. -/
theorem pointValuesBounded : Obligations.PointValuesBounded := by
  intro cfg r i hi
  obtain ⟨hs0, hs1⟩ := span_bounds cfg r
  obtain ⟨ha0, ha1⟩ := start_mul_add_span_mul_bounds cfg r hi
  obtain ⟨hn0, hn1⟩ := angleNum_bounds cfg r hi
  exact ⟨hs0, hs1, ha0, ha1, hn0, hn1, by unfold angleDen; omega, angleDen_le r⟩

theorem pointRegs_span_toInt (cfg : Config) (r : PktRegs) (i : Nat) :
    (pointRegs cfg r i).span.toInt = span cfg r :=
  ofInt_span_toInt (span_bounds cfg r).1 (span_bounds cfg r).2

theorem pointRegs_num_toNat (cfg : Config) (r : PktRegs) {i : Nat} (hi : i < r.n.toNat) :
    ((pointRegs cfg r i).num.toNat : Int) = angleNum cfg r i :=
  ofInt_num_toNat (angleNum_bounds cfg r hi).1 (angleNum_bounds cfg r hi).2

theorem pointRegs_den_toNat (cfg : Config) (r : PktRegs) (i : Nat) :
    (pointRegs cfg r i).den.toNat = 100 * r.n.toNat :=
  (BitVec.toNat_ofNat ..).trans (Nat.mod_eq_of_lt ((angleDen_le r).trans_lt (by decide)))

theorem pointRegs_dist_toNat (cfg : Config) (r : PktRegs) {i : Nat} (h : i < 31) :
    (pointRegs cfg r i).dist.toNat = r.dist[i].toNat := by
  simp [pointRegs, pktSlot_eq r h]
  omega

theorem pointRegs_conf (cfg : Config) (r : PktRegs) {i : Nat} (h : i < 31) :
    (pointRegs cfg r i).conf = r.conf[i] := by
  simp [pointRegs, pktSlot_eq r h]

/-- Settles O37. A repeated POINT finds the same packet and SPAN_MOD, so it writes what already stands there. -/
theorem pointComputesAngle : Obligations.PointComputesAngle := by
  intro s b
  refine ⟨packWord_eq_or 4#4 b, exec_of_fatal (.point b), exec_point_of_noPacket, exec_point_of_badIndex,
    fun hf hv hi S E N i x sp a hS hE hN hi' hx hsp ha => ?_⟩
  have hspan : sp = span s.cfg s.pkt := by
    subst hsp hx hE hS
    rw [span_eq]
    cases s.cfg.spanMod <;> rfl
  have h31 : b.toNat < 31 := hi.trans_le (Nat.le_of_lt_succ s.pkt.n.isLt)
  subst hspan ha hi' hN hS
  exact ⟨_, exec_point_of_lt hf hv hi, rfl, rfl, congrArg Nat.cast (pointRegs_idx s.cfg s.pkt hi),
    pointRegs_span_toInt s.cfg s.pkt b.toNat, pointRegs_num_toNat s.cfg s.pkt hi,
    congrArg Nat.cast (pointRegs_den_toNat s.cfg s.pkt b.toNat),
    ⟨h31, pointRegs_dist_toNat s.cfg s.pkt h31, pointRegs_conf s.cfg s.pkt h31⟩, exec_point_of_lt hf hv hi⟩

/-! ### What POINT reads (43_interpolator.md R179) -/

theorem pointRegs_congr {c d : Config} (h : c.spanMod = d.spanMod) (r : PktRegs) (i : Nat) :
    pointRegs c r i = pointRegs d r i := by
  simp only [pointRegs, angleNum, span, h]

/-- Settles O43: the packet registers alone decide the case, and SPAN_MOD the point in the last one. -/
theorem pointIsPure : Obligations.PointIsPure := by
  intro s u b hs hu hp hm
  refine ⟨_, _, exec_of_live (.point b) hs, exec_of_live (.point b) hu, pointEffect_frame _ s,
    pointEffect_frame _ u, ?_⟩
  simp only [liveEffect]
  obtain ⟨hv, he⟩ | ⟨hv, hi, he⟩ | ⟨hv, hi, he⟩ := pointEffect_cases b.toNat s
  · rw [he, pointEffect_of_noPacket (hp ▸ hv)]
    exact ⟨rfl, .inr ⟨rfl, rfl⟩, fun h => absurd h (by simp)⟩
  · rw [he, pointEffect_of_badIndex (hp ▸ hv) (hp ▸ hi)]
    exact ⟨rfl, .inr ⟨rfl, rfl⟩, fun h => absurd h (by simp)⟩
  · have hpt : pointRegs s.cfg s.pkt b.toNat = pointRegs u.cfg u.pkt b.toNat := hp ▸ pointRegs_congr hm s.pkt b.toNat
    rw [he, pointEffect_of_lt (hp ▸ hv) (hp ▸ hi)]
    exact ⟨rfl, .inl hpt, fun _ => hpt⟩

/-! ### The angle in degrees (43_interpolator.md R172, R177) -/

/-- `a` of R172 in degrees: the angle of point i before its correction. -/
def rawAngle (cfg : Config) (r : PktRegs) (i : Nat) : ℚ :=
  (((r.startAngle.toNat : Int) * r.n.toNat + span cfg r * i : Int) : ℚ) / (angleDen r : ℚ)

section
variable {r : PktRegs} (hn : 0 < r.n.toNat)
include hn

theorem angleDen_pos : (0 : ℚ) < angleDen r :=
  Nat.cast_pos.mpr (Nat.mul_pos (by decide) hn)

theorem lt_rawAngle_iff (cfg : Config) (i k : Nat) :
    (k : ℚ) < rawAngle cfg r i ↔
      (k * angleDen r : Int) < (r.startAngle.toNat : Int) * r.n.toNat + span cfg r * i := by
  rw [rawAngle, lt_div_iff₀ (angleDen_pos hn)]
  norm_cast

/-- The correction of the numerator takes a full turn from the angle, once, when it exceeds one. -/
theorem angleDeg_eq (cfg : Config) (i : Nat) :
    angleDeg cfg r i = if rawAngle cfg r i > 360 then rawAngle cfg r i - 360 else rawAngle cfg r i := by
  have hden := angleDen_pos hn
  have hturn : fullTurn * (r.n.toNat : Int) = 360 * angleDen r := by
    unfold fullTurn angleDen; omega
  have hgt := lt_rawAngle_iff hn cfg i 360
  rw [angleDeg, angleNum, correctOnce, hturn]
  split_ifs with hnum hraw hraw
  · rw [Int.cast_sub, sub_div, rawAngle]
    push_cast
    rw [mul_div_cancel_right₀ _ hden.ne']
  · exact absurd (hgt.mpr hnum) hraw
  · exact absurd (hgt.mp hraw) hnum
  · rfl

/-- The source's formula, with the span in degrees (43_interpolator.md R172). -/
theorem rawAngle_eq (cfg : Config) (i : Nat) :
    rawAngle cfg r i = (r.startAngle.toNat : ℚ) / 100 + (span cfg r : ℚ) / 100 * (i / r.n.toNat) := by
  have hne : (r.n.toNat : ℚ) ≠ 0 := Nat.cast_ne_zero.mpr hn.ne'
  rw [rawAngle, angleDen]
  push_cast
  field_simp

end

/-- The largest start angle and span at the last of 31 samples. -/
theorem rawAngle_le (cfg : Config) {r : PktRegs} {i : Nat} (hi : i < r.n.toNat) :
    rawAngle cfg r i ≤ 3111555 / 3100 := by
  have hN : r.n.toNat ≤ 31 := Nat.le_of_lt_succ r.n.isLt
  have hS : (r.startAngle.toNat : Int) * r.n.toNat ≤ 65535 * r.n.toNat := by
    have := r.startAngle.isLt
    gcongr
    omega
  have hspan : span cfg r * i ≤ 35999 * i := by
    gcongr
    exact (span_bounds cfg r).2
  have hnum : ((r.startAngle.toNat : Int) * r.n.toNat + span cfg r * i) * 3100 ≤ 3111555 * (angleDen r : Int) := by
    unfold angleDen
    omega
  rw [rawAngle, div_le_div_iff₀ (angleDen_pos (by omega)) (by norm_num)]
  exact_mod_cast hnum

/-- Settles O42, by the angle before its correction. -/
theorem oneCorrectionOnly : Obligations.OneCorrectionOnly := by
  intro cfg r i hi a ha
  have hn : 0 < r.n.toNat := by omega
  have hgt (k : Nat) := lt_rawAngle_iff hn cfg i k
  simp only [← ha, angleDen] at hgt
  rw [angleDeg_eq hn]
  refine ⟨fun h => ?_, fun hS h0 => ?_, fun h => ?_, ?_⟩
  · have hraw : rawAngle cfg r i = 360 := by
      rw [rawAngle, div_eq_iff (angleDen_pos hn).ne', ← ha, h, angleDen]
      push_cast
      ring
    rw [hraw, if_neg (lt_irrefl _)]
  · have hlt : (36000 : Int) * r.n.toNat < r.startAngle.toNat * r.n.toNat := by
      gcongr
      exact_mod_cast hS
    have hraw : rawAngle cfg r i > 360 := (hgt 360).mpr (by subst h0; omega)
    rw [if_pos hraw]
    linarith
  · have hraw : rawAngle cfg r i > 720 := (hgt 720).mpr (by omega)
    rw [if_pos (by linarith)]
    linarith
  · have hle := rawAngle_le cfg hi
    split_ifs <;> linarith

/-! ### The two remainders in degrees (43_interpolator.md R170) -/

theorem floor_div_turn (x : Int) : ⌊(x : ℚ) / 36000⌋ = x / 36000 := Rat.floor_intCast_div_natCast x 36000

theorem tdiv_turn_eq (x : Int) :
    x.tdiv 36000 = if x < 0 then ⌈(x : ℚ) / 36000⌉ else ⌊(x : ℚ) / 36000⌋ := by
  split_ifs with h
  · have hceil : ⌈(x : ℚ) / 36000⌉ = -(-x / 36000) := Rat.ceil_intCast_div_natCast x 36000
    rw [hceil, ← Int.tdiv_eq_ediv_of_nonneg (by omega), Int.neg_tdiv, neg_neg]
  · rw [floor_div_turn, Int.tdiv_eq_ediv_of_nonneg (by omega)]

section
variable {x : Int} {d : ℚ} (hd : d = x / 100)
include hd

theorem degrees_div_turn : d / 360 = (x : ℚ) / 36000 := by
  rw [hd]
  ring

theorem spanReduce_euclid_degrees : (spanReduce .euclid x : ℚ) / 100 = d - 360 * (⌊d / 360⌋ : ℤ) := by
  have hmod : spanReduce .euclid x = x - 36000 * (x / 36000) := Int.emod_def x 36000
  rw [hmod, degrees_div_turn hd, floor_div_turn, hd]
  push_cast
  ring

theorem spanReduce_trunc_degrees :
    (spanReduce .trunc x : ℚ) / 100 = d - 360 * (if d < 0 then ⌈d / 360⌉ else ⌊d / 360⌋ : ℤ) := by
  have hneg : d < 0 ↔ x < 0 := by rw [hd, div_lt_iff₀ (by norm_num), zero_mul, Int.cast_lt_zero]
  simp only [spanReduce, fullTurn, tdiv_turn_eq, degrees_div_turn hd, hneg]
  rw [hd]
  push_cast
  ring

end

/-- Settles O41: the span in degrees is the remainder of the left side in degrees, under either reading. -/
theorem angleIsExactFormula : Obligations.AngleIsExactFormula := by
  intro cfg r i hi s e x m a hs he hx hm ha
  have hn : 0 < r.n.toNat := by omega
  have hleft : x = (((r.endAngle.toNat : Int) + 36000 - r.startAngle.toNat : Int) : ℚ) / 100 := by
    rw [hx, hs, he]
    push_cast
    ring
  have hspan : (span cfg r : ℚ) / 100 = m := by
    rw [span_eq, hm]
    cases cfg.spanMod with
    | euclid => exact spanReduce_euclid_degrees hleft
    | trunc => exact spanReduce_trunc_degrees hleft
  rw [angleDeg_eq hn, rawAngle_eq hn, hspan, ← hs, ← ha]

end Sys2Proof.Machine

/-! The two conditions the block reports: an illegal word, and the transport failure that FAIL sets. -/

namespace Sys2Proof.Machine

/-! ### A word while FATAL = 1 (60_exceptions.md R202) -/

/-- FATAL = 1 suppresses the command of a legal word and the ILLEGAL response to any other. -/
theorem execWord_of_fatal (w : CmdWord) {s : State} (h : s.fatal = true) : execWord w s = .next s := by
  cases hd : decode w with
  | ok i =>
    rw [execWord_of_ok hd]
    exact exec_of_fatal i h
  | error r =>
    rw [execWord_of_error hd]
    exact guarded_of_fatal (report .illegal) h

/-! ### The obligations -/

/-- Settles O8: the illegal word has the ILLEGAL response, and the step after takes the next word as any step does. -/
theorem illegalWordOnlyReports : Obligations.IllegalWordOnlyReports := by
  intro s w rest r hp hd hf
  refine ⟨?_, fun w' rest' i hr hd' => ?_⟩
  · calc step s = execWord w (s.setPort rest) := step_of_cons hp
      _ = illegalResponse (s.setPort rest) := execWord_of_error hd _
      _ = .next { s with port := rest, status := 0xB#4 } := guarded_of_live (report .illegal) hf
  · exact stepRunsDecodedCommand.1 { s with port := rest, status := 0xB#4 } w' rest' i hr hd'

/-- Settles O9: no word has an effect while FATAL = 1, so a step that clears FATAL took the reset signal. -/
theorem fatalStateFreezes : Obligations.FatalStateFreezes := by
  refine ⟨fun s w rest hf hp => ?_, fun s t hs h => (fatalWrittenOnlyByFailAndReset.2 s t h).2 hs⟩
  calc step s = execWord w (s.setPort rest) := step_of_cons hp
    _ = .next { s with port := rest } := execWord_of_fatal w hf

/-- Settles O44: FAIL finds FATAL 0 and sets it, or finds it 1, as every command after it does. -/
theorem failStopsBlock : Obligations.FailStopsBlock :=
  ⟨by decide, fun _ => ⟨exec_of_fatal .fail, fun hf => ⟨exec_of_live .fail hf, fun i => exec_of_fatal i rfl⟩⟩⟩

end Sys2Proof.Machine

/-! The reset signal, the one event that is no command word. -/

namespace Sys2Proof.Machine

/-- The reset signal is taken whatever the state, FATAL = 1 included (60_exceptions.md R202). -/
theorem step_of_reset {s : State} {rest : List PortEvent} (h : s.port = .reset :: rest) :
    step s = .next (resetSignal (s.setPort rest)) := step_of_cons h

/-- Settles O10: the step is the reset signal, which keeps only the parameters and the events still to come; its registers
have the literal values by the definition of the reset state. -/
theorem resetSignalClearsAll : Obligations.ResetSignalClearsAll := by
  intro s rest hp
  calc step s = .next (resetSignal (s.setPort rest)) := step_of_reset hp
    _ = .next { State.resetWith s.cfg with port := rest } := by
      rw [resetSignal_eq, State.setPort_cfg, State.setPort_port]
    _ = _ := rfl

end Sys2Proof.Machine
